-- ==== Sys2Proof/Word.lean ====
section
/-! DEFINITION. The widths of the decoder's values (00_scope.md section 5 and rule R8, 10_state.md rule R20), and the two
levels of the line (30_encoding.md rule R83). -/

namespace Sys2Proof

/-- One cell of the frame buffer, and the running CRC value (rules R26, R162). -/
abbrev Byte := BitVec 8

/-- A timestamp or an interval: an unsigned number of microseconds (rules R8, R21). -/
abbrev Timestamp := BitVec 64

/-- One field of the decoded reading: a 16-bit pattern (rule R28). -/
abbrev Field := BitVec 16

/-- One event counter (rule R30). -/
abbrev Count := BitVec 32

/-- An edge event written as one number: the level in bit 64, the timestamp in bits 63 to 0 (rule R86). -/
abbrev EventWord := BitVec 65

/-- The 3-bit code of a symbol (rule R88). -/
abbrev SymbolCode := BitVec 3

/-- An index of the frame buffer, 0 to 49: `CAPACITY` is 50 (rules R24, R26, R51). -/
abbrev ByteIndex := Fin 50

/-- An index of a bit inside a byte, bit 0 the least significant (rules R23, R51). -/
abbrev BitIndex := Fin 8

/-- The level the line has after a transition (rules R83, R84). -/
inductive Level
  /-- A falling edge led here. Encoded 0. -/
  | low
  /-- A rising edge led here. Encoded 1. -/
  | high
  deriving DecidableEq, Repr

end Sys2Proof
end

