-- ==== Sys2Proof/Config.lean ====
section
/-! DEFINITION. What the spec leaves open and names as a parameter (93_implementation_defined.md part 1, treatment
`parameter`), each with the value the spec takes, and the free values (treatment `any value`). None of these is a
register: "no configurable protocol parameters" (10_state.md rule R36). -/

namespace Sys2Proof

/-- What happens when a bit completes byte 49 (92_eei_decisions.md D7, where both are written out). -/
inductive OverrunPolicy
  /-- Both cursors to 0, the frame counted and counted incomplete (rule R137). -/
  | discardCounted
  /-- The cursors to 0 and nothing else: what the original software did, rejected by the spec. -/
  | wrapSilent
  deriving DecidableEq, Repr

namespace Config

/-- `MEASURE_LEVEL`, the level whose edge ends a measurement (rule R117). DESIGN CHOICE of the spec (D22), log 8. unsafe. -/
def measureLevel : Level := .high

/-- `OVERRUN_POLICY` (rule R137). DESIGN CHOICE of the spec (D7), log 9. unsafe. -/
def overrunPolicy : OverrunPolicy := .discardCounted

/-- `CRC_INIT`, the value the running CRC starts from (rule R161). DESIGN CHOICE of the spec (D8), log 10. unsafe. -/
def crcInit : Byte := 0x00#8

/-- The free choice of rule R63: which of the moments of an overlapping query a component of its result is taken from.
Nothing is known of its values; the machine applies it to a counter, so that every choice is a fresh one (log 3). safe. -/
opaque freeInstant : Nat → Nat

end Config

end Sys2Proof
end

