-- ==== Sys2Proof/Syntax.lean ====
section
/-! DEFINITION. The operations of the block (30_encoding.md rule R90, one constructor per row of spec/opcode_table.json),
the symbol between classifier and assembler (rule R88), and what can be delivered to the block from outside
(44_snapshot_query.md rule R203: `on_edge`, `snapshot` and reset; and the symbol-level test bench of rules R88, R95). -/

namespace Sys2Proof

/-- What the classifier hands to the Frame Assembler: exactly one of five (rules R88, R110). -/
inductive Symbol
  | noise
  | zeroBit
  | oneBit
  | sync
  | endOfFrame
  deriving DecidableEq, Repr

/-- The operations, in the order of the table. -/
inductive Instr
  /-- LATCH, rule R111: record the timestamp of an edge to LOW. -/
  | latch (t : Timestamp)
  /-- PREBASE, rule R112: drop an edge to HIGH that has no baseline. -/
  | prebase (t : Timestamp)
  /-- MEASURE, rules R113 to R116: classify the interval and perform the symbol's operation. -/
  | measure (t : Timestamp)
  /-- ZERO_BIT, rule R130. -/
  | zeroBit
  /-- ONE_BIT, rule R131. -/
  | oneBit
  /-- SYNC, rule R139. -/
  | sync
  /-- END_OF_FRAME, rules R140 to R144. -/
  | endOfFrame
  /-- NOISE, rule R145. -/
  | noise
  /-- ADVANCE, rules R134, R136 (internal). -/
  | advance
  /-- OVERRUN, rule R137 (internal). -/
  | overrun
  /-- CRC8, rule R164 (internal). -/
  | crc8
  /-- CRC_STEP, rule R162 (internal): the running CRC and one data bit. -/
  | crcStep (crc : Byte) (d : Bool)
  /-- INTERPRET, rule R183 (internal). -/
  | interpret
  /-- SNAPSHOT, rule R200: the query of the reader with this number returns (there may be several readers, rule R59). -/
  | snapshot (reader : Nat)
  /-- RESET, rule R240. -/
  | reset
  deriving DecidableEq, Repr

/-- What an entry point of the block is handed, still encoded. -/
inductive Request
  /-- A call of `on_edge`: the event word (rules R80, R86). -/
  | edge (word : EventWord)
  /-- A line of a symbol-level test bench: the symbol's code (rules R88, R95). -/
  | symbol (code : SymbolCode)
  /-- A query of this reader returns (rules R82, R200). -/
  | query (reader : Nat)
  /-- The assertion of `rst` (rules R81, R240). -/
  | reset
  deriving DecidableEq, Repr

/-- What the environment and the readers do next (log 1, log 3). -/
inductive Input
  /-- Something is handed to an entry point. -/
  | request (r : Request)
  /-- A reader begins a query; it returns at that reader's next `Request.query`, and overlaps what runs in between
  (20_memory.md rule R63). A query that overlaps nothing needs no beginning. -/
  | beginQuery (reader : Nat)
  deriving DecidableEq, Repr

end Sys2Proof
end

