-- ==== Sys2Proof/WellFormed.lean ====
section
/-! DEFINITION. Which operations can be asked for from outside, which requests carry an encoding the spec defines, and
which value of `base_valid` an operation's row of the table requires (30_encoding.md rules R87, R88, R90, R97). -/

namespace Sys2Proof

/-- An operation that something delivered to the block selects: the EDGE, SYMBOL, QUERY and ENVIRONMENT rows. The INTERNAL
rows "are not selected by an event directly but invoked by another operation" and have no bit pattern (rules R90, R97). -/
def Instr.wf : Instr → Bool
  | .latch _ => true
  | .prebase _ => true
  | .measure _ => true
  | .zeroBit => true
  | .oneBit => true
  | .sync => true
  | .endOfFrame => true
  | .noise => true
  | .advance => false
  | .overrun => false
  | .crc8 => false
  | .crcStep _ _ => false
  | .interpret => false
  | .snapshot _ => true
  | .reset => true

/-- The value of `base_valid` under which the operation's row selects its word (rules R87, R97): PREBASE and MEASURE have
the same word and differ only here. -/
def Instr.fitsBase (baseValid : Bool) : Instr → Bool
  | .prebase _ => !baseValid
  | .measure _ => baseValid
  | _ => true

/-- A request the spec gives a meaning: every event word (rule R91), and the symbol codes 0 to 4 (rule R88). -/
def Request.wf : Request → Bool
  | .edge _ => true
  | .symbol code => decide (code.toNat < 5)
  | .query _ => true
  | .reset => true

end Sys2Proof
end

