-- ==== Sys2Proof/Decode.lean ====
section
/-! DEFINITION. The decode of what is delivered to the block (30_encoding.md rules R84, R86, R87, R88, R97), total, with
what it rejects named; then the encoder, written from the same tables. A HIGH event word is decoded against `base_valid`
(rule R93): the interval, and with it the symbol, is computed by MEASURE, not by the decoder. -/

namespace Sys2Proof

/-- Why a word is not an operation. -/
inductive DecodeError
  /-- A symbol code 5, 6 or 7 (rule R88; 93_implementation_defined.md U9). -/
  | reservedSymbolCode (code : SymbolCode)
  /-- A number with a bit set above the 65 bits of an event word or the 3 bits of a symbol code. -/
  | wordTooWide (nbits w : Nat)
  /-- A row of the table that has no bit pattern (rule R97). -/
  | noBits
  deriving DecidableEq, Repr

/-- Bit 64 of the event word: 1 is HIGH, 0 is LOW (rules R84, R86). -/
def levelOf (word : EventWord) : Level :=
  if word.getLsbD 64 then .high else .low

/-- Bits 63 to 0 of the event word (rule R86). -/
def timestampOf (word : EventWord) : Timestamp :=
  word.setWidth 64

/-- The decode of an event for a given `MEASURE_LEVEL` (rules R87, R117): an edge to the other level latches; an edge to
this one is dropped without a baseline and measured with one. -/
def decodeEvent (measureLevel : Level) (baseValid : Bool) (word : EventWord) : Instr :=
  if levelOf word = measureLevel then
    if baseValid then .measure (timestampOf word) else .prebase (timestampOf word)
  else .latch (timestampOf word)

/-- The table of rule R88. -/
def symbolOfCode (code : SymbolCode) : Option Symbol :=
  match code.toNat with
  | 0 => some .noise
  | 1 => some .zeroBit
  | 2 => some .oneBit
  | 3 => some .sync
  | 4 => some .endOfFrame
  | _ => none

/-- The operation of the symbol's name (rules R116, R149). -/
def Symbol.instr : Symbol → Instr
  | .noise => .noise
  | .zeroBit => .zeroBit
  | .oneBit => .oneBit
  | .sync => .sync
  | .endOfFrame => .endOfFrame

/-- The operation a request selects while `base_valid` has this value. -/
def decode (baseValid : Bool) : Request → Except DecodeError Instr
  | .edge word => .ok (decodeEvent Config.measureLevel baseValid word)
  | .symbol code =>
    match symbolOfCode code with
    | some y => .ok y.instr
    | none => .error (.reservedSymbolCode code)
  | .query reader => .ok (.snapshot reader)
  | .reset => .ok .reset

/-- A row's bits as a request: at most one byte is the 3-bit symbol code of a SYMBOL row, more is the 65-bit event word
(rules R86, R88, R97); log 2. -/
def requestOfWord (nbits w : Nat) : Except DecodeError Request :=
  if nbits = 0 then .error .noBits
  else if nbits ≤ 8 then
    if w < 2 ^ 3 then .ok (.symbol (BitVec.ofNat 3 w)) else .error (.wordTooWide nbits w)
  else if w < 2 ^ 65 then .ok (.edge (BitVec.ofNat 65 w))
  else .error (.wordTooWide nbits w)

/-- The decode of a row's bits while `base_valid` has this value. -/
def decodeWord (baseValid : Bool) (nbits w : Nat) : Except DecodeError Instr :=
  match requestOfWord nbits w with
  | .ok r => decode baseValid r
  | .error e => .error e

/-- The instruction the decoder reads from a row's bits right after reset, where `base_valid` is 0 (rules R40, R87): a word
with level HIGH is then PREBASE (rule R92). Seven rows of the table share that one word; `decodeWord` says what it is in
the other states (log 2). -/
def decodeTableWord (nbits w : Nat) : Option Instr :=
  match decodeWord false nbits w with
  | .ok i => some i
  | .error _ => none

/-! ### The encoder -/

/-- The level bit (rule R84). -/
def Level.bit : Level → BitVec 1
  | .low => 0#1
  | .high => 1#1

/-- The level that is not this one. -/
def Level.other : Level → Level
  | .low => .high
  | .high => .low

/-- The event word `{level, timestamp_us}` (rule R86). -/
def eventWord (level : Level) (t : Timestamp) : EventWord :=
  level.bit ++ t

/-- The code column of rule R88. -/
def Symbol.code : Symbol → SymbolCode
  | .noise => 0
  | .zeroBit => 1
  | .oneBit => 2
  | .sync => 3
  | .endOfFrame => 4

/-- The request that selects an operation, where there is one: none for the INTERNAL rows (rules R90, R97). -/
def encode : Instr → Option Request
  | .latch t => some (.edge (eventWord Config.measureLevel.other t))
  | .prebase t => some (.edge (eventWord Config.measureLevel t))
  | .measure t => some (.edge (eventWord Config.measureLevel t))
  | .zeroBit => some (.symbol Symbol.zeroBit.code)
  | .oneBit => some (.symbol Symbol.oneBit.code)
  | .sync => some (.symbol Symbol.sync.code)
  | .endOfFrame => some (.symbol Symbol.endOfFrame.code)
  | .noise => some (.symbol Symbol.noise.code)
  | .advance => none
  | .overrun => none
  | .crc8 => none
  | .crcStep _ _ => none
  | .interpret => none
  | .snapshot reader => some (.query reader)
  | .reset => some .reset

/-- The bits of a request as the table numbers them, with their number in whole bytes; none for the query and reset,
whose rows have no bit pattern (rule R97). -/
def Request.word : Request → Option (Nat × Nat)
  | .edge word => some (72, word.toNat)
  | .symbol code => some (8, code.toNat)
  | .query _ => none
  | .reset => none

end Sys2Proof
end

