-- ==== Sys2Proof/Machine/State.lean ====
section
/-! DEFINITION. The state: the block's elements of 10_state.md rule R20, and, kept apart and marked as the model's own,
what stands for the environment and the readers (20_memory.md rule R59). -/

namespace Sys2Proof.Machine

/-- DecodedReading: five 16-bit patterns (rule R28). -/
structure Reading where
  boilerTempRaw : Field
  solarTempRaw : Field
  boilerHumidityRaw : Field
  solarHumidityRaw : Field
  boilerPressureRaw : Field
  deriving DecidableEq, Repr

/-- Counters: three 32-bit counters (rule R30). -/
structure Counters where
  framesTotal : Count
  framesIncomplete : Count
  checksumFailures : Count
  deriving DecidableEq, Repr

/-- The eight status registers, all a reader can see (rules R37, R200). -/
structure Status where
  reading : Reading
  counters : Counters
  deriving DecidableEq, Repr

/-- A query in progress: the reader it belongs to and the values the status registers have held since it began, the first
one apart so that there always is one (rule R63; log 3). -/
structure QueryWindow where
  reader : Nat
  first : Status
  later : List Status
  deriving DecidableEq, Repr

/-- What an operation returned to its caller (log 4). -/
inductive Reply
  /-- The result of SNAPSHOT, to this reader (rule R200). -/
  | snapshot (reader : Nat) (result : Status)
  /-- The result of CRC_STEP (rule R162). -/
  | crcValue (value : Byte)
  deriving DecidableEq, Repr

/-- The failure classes FC1 to FC4 (60_exceptions.md rule R210). They are labels of what happens inside an operation, never
outcomes that stop the machine (rule R218). -/
inductive Failure
  /-- FC1: an interval in none of the windows (rule R211). -/
  | noiseInterval
  /-- FC2: an END_OF_FRAME mid-byte or with no byte (rule R212). -/
  | incompleteFrame
  /-- FC3: the checksum differs from the trailing byte (rule R213). -/
  | checksumMismatch
  /-- FC4: a bit completed byte 49 (rule R214). -/
  | bufferOverrun
  deriving DecidableEq, Repr

/-- Faults: there are none. "no fault, stuck or refusal outcome: every event in every reachable state has exactly one
successor state" (60_exceptions.md rule R218). -/
inductive Fault
  deriving DecidableEq, Repr

/-- Why the model declines to define a step. -/
inductive Refusal
  /-- Raised by an arm of `exec` whose instruction has no meaning yet. safe. -/
  | notModelled (mnemonic : String)
  /-- Raised by `step` on a request the decoder rejects, with its reason. Of what can be delivered that is only a symbol code
  5, 6 or 7, which "a symbol-level driver must not use" (30_encoding.md rule R88; treatment `refuse`,
  93_implementation_defined.md U9). safe: the model stops where the spec defines nothing. -/
  | rejected (reason : DecodeError)
  /-- Raised by RESET while a query is in progress: "A reset must not coincide with an edge operation or a query: the spec
  defines no behaviour for that" (70_reset_and_hazards.md rule R241; treatment `refuse`, U8). safe. -/
  | resetDuringQuery
  /-- Raised by CRC8 with `byte_cursor` = 0, where there is no trailing byte: its inputs are defined for `1 <= n <= 49`
  (42_crc_validator.md rule R160), and END_OF_FRAME never invokes it so (rule R142). safe. -/
  | crcOfNoByte
  deriving DecidableEq, Repr

/-- The frame buffer: (index, byte) pairs, indices strictly rising and below 50, no byte 0x00; an index that is not listed
reads 0x00, the reset contents (rules R26, R40; log 6). -/
abbrev Memory := List Host.Cell

structure State where
  /-- The timestamp of the last latched edge (rule R21). -/
  lastEdgeTimestampUs : Timestamp
  /-- Whether an edge has been latched since reset (rule R22). -/
  baseValid : Bool
  /-- The bit the next bit symbol writes (rule R23). -/
  bitCursor : BitIndex
  /-- The byte being assembled, and the number of complete bytes before it (rule R24). -/
  byteCursor : ByteIndex
  /-- The 50 bytes (rule R26). -/
  frameBuffer : Memory
  /-- The last published reading (rule R28). -/
  reading : Reading
  /-- The three counters (rule R30). -/
  counters : Counters
  /-- MODEL'S OWN: what the environment delivers next, first to last (log 1). -/
  inputs : List Input
  /-- MODEL'S OWN: the queries in progress, oldest first (log 3). -/
  queries : List QueryWindow
  /-- MODEL'S OWN: what operations have returned, newest first (log 4). -/
  replies : List Reply
  /-- MODEL'S OWN: how many free choices have been made (log 3). -/
  freeCount : Nat
  deriving DecidableEq, Repr

/-- The all-zero reading (rules R40, R41). -/
def Reading.zero : Reading := ⟨0, 0, 0, 0, 0⟩

/-- The counters at zero (rule R40). -/
def Counters.zero : Counters := ⟨0, 0, 0⟩

/-- "After reset every state element is zero" (rule R40). The model's own fields are empty (log 1, 3, 4): no program. -/
def State.reset : State where
  lastEdgeTimestampUs := 0
  baseValid := false
  bitCursor := 0
  byteCursor := 0
  frameBuffer := []
  reading := Reading.zero
  counters := Counters.zero
  inputs := []
  queries := []
  replies := []
  freeCount := 0

end Sys2Proof.Machine
end

