-- ==== Sys2Proof/Machine/Ops.lean ====
section
/-! DEFINITION. The named operations over the frame buffer and the registers, and raising a failure: what the meanings of
the instructions are written in. -/

namespace Sys2Proof.Machine

/-! ### The frame buffer (20_memory.md rules R51, R54, R57, R58) -/

/-- What a byte that nothing has written since reset reads as: reset writes 0x00 to every byte (rule R40). -/
def unlistedByte : Byte := 0x00#8

/-- `MemRead(a, 1)`. The index is below 50 by its type, so no read can fall outside (rule R58). -/
def Memory.read (m : Memory) (a : ByteIndex) : Byte :=
  match m with
  | [] => unlistedByte
  | (k, b) :: rest => if k = a.val then b else Memory.read rest a

/-- The cell for byte `v` at index `a`, if it has to be listed. -/
def Memory.cell (a : ByteIndex) (v : Byte) : Memory :=
  if v = unlistedByte then [] else [(a.val, v)]

/-- `MemWrite(a, 1, v)`, keeping the canonical form. -/
def Memory.write (m : Memory) (a : ByteIndex) (v : Byte) : Memory :=
  match m with
  | [] => Memory.cell a v
  | (k, b) :: rest =>
    if a.val < k then Memory.cell a v ++ (k, b) :: rest
    else if a.val = k then Memory.cell a v ++ rest
    else (k, b) :: Memory.write rest a v

/-- Indices strictly rising from `lo` on and below 50, no byte equal to what an unlisted index reads as. -/
def Memory.risesFrom (lo : Nat) : Memory → Bool
  | [] => true
  | (k, b) :: rest => decide (lo ≤ k) && decide (k < 50) && decide (b ≠ unlistedByte) && Memory.risesFrom (k + 1) rest

/-- The canonical form: equal buffers are equal lists. -/
def Memory.wf (m : Memory) : Bool := Memory.risesFrom 0 m

/-- The 50 bytes in ascending order of index. -/
def Memory.bytes (m : Memory) : List Byte := (List.finRange 50).map (Memory.read m)

/-- The byte of the state's frame buffer at an index. -/
def State.readByte (s : State) (a : ByteIndex) : Byte := Memory.read s.frameBuffer a

/-- The state with one byte of its frame buffer written. -/
def State.writeByte (s : State) (a : ByteIndex) (v : Byte) : State :=
  { s with frameBuffer := Memory.write s.frameBuffer a v }

/-! ### The registers -/

/-- The write position to the start of the buffer (rules R137, R139). -/
def State.zeroCursors (s : State) : State := { s with bitCursor := 0, byteCursor := 0 }

/-- `frames_total <- frames_total +_32 1` (rules R31, R140). -/
def State.countFrame (s : State) : State :=
  { s with counters := { s.counters with framesTotal := s.counters.framesTotal + 1 } }

/-- `frames_incomplete <- frames_incomplete +_32 1` (rules R31, R141). -/
def State.countIncomplete (s : State) : State :=
  { s with counters := { s.counters with framesIncomplete := s.counters.framesIncomplete + 1 } }

/-- `checksum_failures <- checksum_failures +_32 1` (rules R31, R166). -/
def State.countChecksumFailure (s : State) : State :=
  { s with counters := { s.counters with checksumFailures := s.counters.checksumFailures + 1 } }

/-- All five fields of the reading, in one write (20_memory.md rule R62). -/
def State.publish (s : State) (r : Reading) : State := { s with reading := r }

/-- The eight status registers as a reader sees them (rule R200). -/
def State.status (s : State) : Status := ⟨s.reading, s.counters⟩

/-- What an operation returns, added to the replies (log 4). -/
def State.reply (s : State) (r : Reply) : State := { s with replies := r :: s.replies }

/-- Every element of the block zero (70_reset_and_hazards.md rule R240); the model's own fields stay (log 12). -/
def State.zeroBlock (s : State) : State :=
  { s with
    lastEdgeTimestampUs := 0, baseValid := false, bitCursor := 0, byteCursor := 0, frameBuffer := [],
    reading := Reading.zero, counters := Counters.zero }

/-! ### Raising a failure (60_exceptions.md rules R210, R217) -/

/-- The overrun under a given policy (rule R137; D7 writes both out). -/
def State.overrunWith (policy : OverrunPolicy) (s : State) : State :=
  match policy with
  | .discardCounted => s.zeroCursors.countFrame.countIncomplete
  | .wrapSilent => s.zeroCursors

/-- Raising a failure "performs the counter update of its row in the table of rule R210 and ends the current operation. It
does nothing else": nothing is saved, no mode changes, control goes nowhere, and there is nothing to return from (rules
R217, R222). The `frames_total` update of IncompleteFrame and ChecksumMismatch is END_OF_FRAME's own, made first (rules
R140, R144); BufferOverrun makes its own and zeroes the write position (rule R214). -/
def raiseFailure (f : Failure) (s : State) : State :=
  match f with
  | .noiseInterval => s
  | .incompleteFrame => s.countIncomplete
  | .checksumMismatch => s.countChecksumFailure
  | .bufferOverrun => s.overrunWith Config.overrunPolicy

/-- The state an outcome goes on in, if it goes on. -/
def nextOf (o : Host.Outcome State Fault Refusal) : Option State :=
  match o with
  | .next s => some s
  | .fault _ => none
  | .refused _ => none

end Sys2Proof.Machine
end

