-- ==== Sys2Proof/Machine/Operands.lean ====
section
/-! DEFINITION. Every operand the operations compute (30_encoding.md rule R89) and the arithmetic on them: the interval and
its symbol, the bit of a byte, the frame's slices, the CRC, the 16-bit fields. -/

namespace Sys2Proof.Machine

/-! ### The interval and its symbol (40_edge_capture_classifier.md) -/

/-- `timestamp_us -_64 last_edge_timestamp_us`, unsigned, modulo 2^64 (rule R113). -/
def intervalOf (t last : Timestamp) : Timestamp := t - last

/-- A window that includes its lower endpoint and excludes its upper one (rule R115). -/
def inWindow (lo hi : Nat) (i : Timestamp) : Bool := decide (lo ≤ i.toNat) && decide (i.toNat < hi)

/-- The four windows (rules R114, R115); any other interval is NOISE. -/
def classify (i : Timestamp) : Symbol :=
  if inWindow 200 400 i then .zeroBit
  else if inWindow 500 700 i then .oneBit
  else if inWindow 1900 2100 i then .sync
  else if inWindow 2900 3100 i then .endOfFrame
  else .noise

/-! ### One bit of a byte (41_frame_assembler.md rule R132) -/

/-- The byte with only bit `k` set. -/
def bitMask (k : BitIndex) : Byte := 1#8 <<< k.val

/-- Bit `k` becomes `v`, the other seven keep their values. -/
def withBit (old : Byte) (k : BitIndex) (v : Bool) : Byte :=
  (old &&& ~~~(bitMask k)) ||| (if v then bitMask k else 0#8)

/-- The bit write at `(byte_cursor, bit_cursor)` that ZERO_BIT and ONE_BIT share. -/
def State.writeBit (s : State) (v : Bool) : State :=
  s.writeByte s.byteCursor (withBit (s.readByte s.byteCursor) s.bitCursor v)

/-! ### The CRC (42_crc_validator.md) -/

/-- One step of the LFSR on data bit `d` (rule R162): the exclusive-or with 0x18 comes before the shift, the feedback bit
goes into bit 7. -/
def lfsrStep (crc : Byte) (d : Bool) : Byte :=
  let fb := Bool.xor (crc.getLsbD 0) d
  let mixed := if fb then crc ^^^ 0x18#8 else crc
  (mixed >>> 1) ||| (if fb then 0x80#8 else 0x00#8)

/-- The eight bits of a byte, bit 0 first (rule R163). -/
def lfsrByte (crc : Byte) (b : Byte) : Byte :=
  [0, 1, 2, 3, 4, 5, 6, 7].foldl (fun c k => lfsrStep c (b.getLsbD k)) crc

/-- The bytes in ascending order, from a given start value (rules R161, R163, R164). -/
def crc8From (init : Byte) (bytes : List Byte) : Byte := bytes.foldl lfsrByte init

/-- `crc8` (rule R164), started at `CRC_INIT`. -/
def crc8 (bytes : List Byte) : Byte := crc8From Config.crcInit bytes

/-- The payload of a frame of `n` bytes: `frame_buffer[0 .. n-2]`, empty when `n` = 1 (rule R160). -/
def payloadOf (m : Memory) (n : Nat) : List Byte := (Memory.bytes m).take (n - 1)

/-- The index of the trailing byte of a frame of `n` >= 1 bytes, `n - 1` (rule R160). -/
def trailingIndex (n : ByteIndex) : ByteIndex := ⟨n.val - 1, Nat.lt_of_le_of_lt (Nat.sub_le n.val 1) n.isLt⟩

/-- Whether the frame of `n` >= 1 bytes in the buffer passes: all eight bits of the CRC of the payload equal the trailing
byte, which itself is not fed through the LFSR (rules R160, R164). -/
def checksumMatches (m : Memory) (n : ByteIndex) : Bool :=
  decide (crc8 (payloadOf m n.val) = Memory.read m (trailingIndex n))

/-! ### The 16-bit fields (20_memory.md rule R50, 43_frame_interpreter.md rule R182) -/

/-- `MemRead(a, 2) = {frame_buffer[a], frame_buffer[a+1]}`: the byte at the lower index is the high one. -/
def fieldAt (m : Memory) (a : Fin 49) : Field := Memory.read m a.castSucc ++ Memory.read m a.succ

/-- The five fields at their offsets. -/
def readingOf (m : Memory) : Reading where
  boilerTempRaw := fieldAt m 4
  solarTempRaw := fieldAt m 6
  boilerHumidityRaw := fieldAt m 8
  solarHumidityRaw := fieldAt m 10
  boilerPressureRaw := fieldAt m 12

/-- How a reader interprets a stored pattern: two's complement of the whole, in tenths of a unit (10_state.md rule R29,
PRESUMED by the spec, log 14). The block itself never does this. -/
def fieldTenths (p : Field) : Int := p.toInt

end Sys2Proof.Machine
end

