-- ==== Sys2Proof/Machine/Flags.lean ====
section
/-! DEFINITION. The block's one flag, `base_valid`, and every condition the operations test (10_state.md rules R22, R35). There
are no condition codes. -/

namespace Sys2Proof.Machine

/-- LATCH sets `base_valid`; only reset clears it (rule R22). -/
def State.setBase (s : State) : State := { s with baseValid := true }

/-- "on a byte boundary" (rule R23): what END_OF_FRAME tests first (rule R141). -/
def State.onByteBoundary (s : State) : Bool := decide (s.bitCursor = 0)

/-- No byte has been assembled: what END_OF_FRAME tests second (rule R142). -/
def State.noByte (s : State) : Bool := decide (s.byteCursor = 0)

/-- The next bit is a byte's eighth (rule R134). -/
def State.atLastBit (s : State) : Bool := decide (s.bitCursor = 7)

/-- The byte being assembled is the buffer's last (rule R136). -/
def State.atLastByte (s : State) : Bool := decide (s.byteCursor = 49)

/-- The frame in the buffer passes its checksum (rule R164). -/
def State.checksumOk (s : State) : Bool := checksumMatches s.frameBuffer s.byteCursor

/-- The frames that passed, as a reader infers them from the counters while none has wrapped (rules R33, R35). -/
def Counters.framesPassed (c : Counters) : Count := c.framesTotal - c.framesIncomplete - c.checksumFailures

/-- The failure an END_OF_FRAME raises, by the order of rule R144; none when the frame passes (rule R219). -/
def State.frameFailure (s : State) : Option Failure :=
  if !s.onByteBoundary then some .incompleteFrame
  else if s.noByte then some .incompleteFrame
  else if s.checksumOk then none
  else some .checksumMismatch

/-- The failure a symbol's operation raises in a state (the table of rule R210); at most one (rule R219). -/
def State.symbolFailure (s : State) : Symbol → Option Failure
  | .noise => some .noiseInterval
  | .zeroBit => if s.atLastBit && s.atLastByte then some .bufferOverrun else none
  | .oneBit => if s.atLastBit && s.atLastByte then some .bufferOverrun else none
  | .sync => none
  | .endOfFrame => s.frameFailure

end Sys2Proof.Machine
end

