-- ==== Sys2Proof/Machine/Interpreter.lean ====
section
/-! DEFINITION. The Frame Interpreter (43_frame_interpreter.md): INTERPRET. -/

namespace Sys2Proof.Machine

/-- INTERPRET, rule R183: the five fields at offsets 4, 6, 8, 10, 12 are published together. No length check (rule R181), no
flag, no counter. -/
def execInterpret (s : State) : Host.Outcome State Fault Refusal :=
  .next (s.publish (readingOf s.frameBuffer))

end Sys2Proof.Machine
end

