-- ==== Sys2Proof/Machine/Checksum.lean ====
section
/-! DEFINITION. The Checksum Validator (42_crc_validator.md): CRC8 and CRC_STEP. -/

namespace Sys2Proof.Machine

/-- CRC8, rule R164, on `n = byte_cursor` bytes: a pass invokes INTERPRET in the same operation (rule R167), a mismatch raises
ChecksumMismatch (rule R166). With `n` = 0, as no operation invokes it (rule R142), it has no trailing byte and is refused. -/
def execCrc8 (s : State) : Host.Outcome State Fault Refusal :=
  if s.noByte then .refused .crcOfNoByte
  else if s.checksumOk then execInterpret s
  else .next (raiseFailure .checksumMismatch s)

/-- CRC_STEP, rule R162, as an operation of its own: it returns the next CRC value and writes no element of the block, since
the running CRC is no state (10_state.md rule R32; log 4). -/
def execCrcStep (crc : Byte) (d : Bool) (s : State) : Host.Outcome State Fault Refusal :=
  .next (s.reply (.crcValue (lfsrStep crc d)))

end Sys2Proof.Machine
end

