-- ==== Sys2Proof/Machine/Assembler.lean ====
section
/-! DEFINITION. The Frame Assembler (41_frame_assembler.md): OVERRUN, ADVANCE, ZERO_BIT, ONE_BIT, SYNC, END_OF_FRAME, NOISE. The
calls between them are those of rule R149. -/

namespace Sys2Proof.Machine

/-- OVERRUN, rule R137: the failure BufferOverrun (rule R214). -/
def execOverrun (s : State) : Host.Outcome State Fault Refusal :=
  .next (raiseFailure .bufferOverrun s)

/-- ADVANCE, rules R134 and R136: the bit cursor, after bit 7 the byte cursor, after byte 49 OVERRUN. -/
def execAdvance (s : State) : Host.Outcome State Fault Refusal :=
  if !s.atLastBit then .next { s with bitCursor := s.bitCursor + 1 }
  else if !s.atLastByte then .next { s with bitCursor := 0, byteCursor := s.byteCursor + 1 }
  else execOverrun s

/-- ZERO_BIT, rule R130: the bit write with 0, then ADVANCE. -/
def execZeroBit (s : State) : Host.Outcome State Fault Refusal :=
  execAdvance (s.writeBit false)

/-- ONE_BIT, rule R131: the bit write with 1, then ADVANCE. -/
def execOneBit (s : State) : Host.Outcome State Fault Refusal :=
  execAdvance (s.writeBit true)

/-- SYNC, rule R139: the cursors to 0; the buffer is not touched. -/
def execSync (s : State) : Host.Outcome State Fault Refusal :=
  .next s.zeroCursors

/-- END_OF_FRAME, rule R144: count the frame, then test mid-byte, then empty, then hand it to the validator. The cursors and
the buffer stay (rule R140). -/
def execEndOfFrame (s : State) : Host.Outcome State Fault Refusal :=
  if !s.onByteBoundary then .next (raiseFailure .incompleteFrame s.countFrame)
  else if s.noByte then .next (raiseFailure .incompleteFrame s.countFrame)
  else execCrc8 s.countFrame

/-- NOISE, rule R145: the failure NoiseInterval, "ignored, no counter" (rule R211). -/
def execNoise (s : State) : Host.Outcome State Fault Refusal :=
  .next (raiseFailure .noiseInterval s)

end Sys2Proof.Machine
end

