-- ==== Sys2Proof/Machine/Edge.lean ====
section
/-! DEFINITION. Edge capture and the interval classifier (40_edge_capture_classifier.md): LATCH, PREBASE, MEASURE. -/

namespace Sys2Proof.Machine

/-- LATCH, rule R111: the timestamp is recorded whatever it is, and a baseline exists. -/
def execLatch (t : Timestamp) (s : State) : Host.Outcome State Fault Refusal :=
  .next ({ s with lastEdgeTimestampUs := t }).setBase

/-- PREBASE, rule R112: no state element is written; the timestamp is not used. -/
def execPrebase (_t : Timestamp) (s : State) : Host.Outcome State Fault Refusal :=
  .next s

/-- Dispatch, rules R116 and R149: the operation of the symbol's name. -/
def performSymbol (y : Symbol) (s : State) : Host.Outcome State Fault Refusal :=
  match y with
  | .noise => execNoise s
  | .zeroBit => execZeroBit s
  | .oneBit => execOneBit s
  | .sync => execSync s
  | .endOfFrame => execEndOfFrame s

/-- MEASURE, rules R113 to R116: interval, symbol, dispatch; it writes nothing itself, so a later HIGH edge is measured from the
same latched timestamp (rule R119). Without a baseline, where the decoder never selects it, the same event is dropped
(rules R87, R112; log 15). -/
def execMeasure (t : Timestamp) (s : State) : Host.Outcome State Fault Refusal :=
  if s.baseValid then performSymbol (classify (intervalOf t s.lastEdgeTimestampUs)) s else .next s

end Sys2Proof.Machine
end

