-- ==== Sys2Proof/Machine/Query.lean ====
section
/-! DEFINITION. The outbound query (44_snapshot_query.md): SNAPSHOT, and what a query that overlaps edge operations may see
(20_memory.md rules R62, R63, R66). -/

namespace Sys2Proof.Machine

/-- Every value the status registers have held since the query began. -/
def QueryWindow.seen (w : QueryWindow) : List Status := w.first :: w.later

/-- The value at the moment that free choice number `n` picks; any of those seen (log 3). -/
def QueryWindow.pick (w : QueryWindow) (n : Nat) : Status :=
  w.seen.getD (Config.freeInstant n % w.seen.length) w.first

/-- The query sees the status registers once more. -/
def QueryWindow.see (w : QueryWindow) (st : Status) : QueryWindow := { w with later := w.later ++ [st] }

/-- A reader begins a query: it sees the registers as they stand. -/
def State.openQuery (s : State) (reader : Nat) : State :=
  { s with queries := s.queries ++ [⟨reader, s.status, []⟩] }

/-- After every operation each query in progress sees the registers again. -/
def State.observe (s : State) : State :=
  { s with queries := s.queries.map (fun w => w.see s.status) }

/-- What an operation leaves, observed by the queries in progress. -/
def observed (o : Host.Outcome State Fault Refusal) : Host.Outcome State Fault Refusal :=
  match o with
  | .next s => .next s.observe
  | .fault r => .fault r
  | .refused r => .refused r

/-- The reader's query in progress, the oldest if it has begun several (log 3). -/
def State.queryOf (s : State) (reader : Nat) : Option QueryWindow :=
  s.queries.find? (fun w => w.reader = reader)

/-- The result of an overlapping query: the reading and each counter, each whole, each from a moment of its own (rule R63). -/
def QueryWindow.result (w : QueryWindow) (n : Nat) : Status where
  reading := (w.pick n).reading
  counters :=
    { framesTotal := (w.pick (n + 1)).counters.framesTotal
      framesIncomplete := (w.pick (n + 2)).counters.framesIncomplete
      checksumFailures := (w.pick (n + 3)).counters.checksumFailures }

/-- The state in which the reader's query has ended, four free choices made. -/
def State.closeQuery (s : State) (reader : Nat) : State :=
  { s with queries := s.queries.eraseP (fun w => w.reader = reader), freeCount := s.freeCount + 4 }

/-- SNAPSHOT, rule R200: returns the eight status registers and writes no element of the block. A query that overlaps nothing
returns exactly the current values (rule R66); one in progress returns what rule R63 allows. -/
def execSnapshot (reader : Nat) (s : State) : Host.Outcome State Fault Refusal :=
  match s.queryOf reader with
  | none => .next (s.reply (.snapshot reader s.status))
  | some w => .next ((s.closeQuery reader).reply (.snapshot reader (w.result s.freeCount)))

end Sys2Proof.Machine
end

