-- ==== Sys2Proof/Machine/Reset.lean ====
section
/-! DEFINITION. Reset as an operation of the environment (70_reset_and_hazards.md): RESET. -/

namespace Sys2Proof.Machine

/-- RESET, rule R240: every state element zero. During a query the spec defines no behaviour and the model refuses (rule R241,
treatment `refuse` of U8; log 12). -/
def execReset (s : State) : Host.Outcome State Fault Refusal :=
  if s.queries.isEmpty then .next s.zeroBlock else .refused .resetDuringQuery

end Sys2Proof.Machine
end

