-- ==== Sys2Proof/Machine/Dispatch.lean ====
section
/-! DEFINITION. One arm per row of spec/opcode_table.json. -/

namespace Sys2Proof.Machine

def exec (i : Instr) (s : State) : Host.Outcome State Fault Refusal :=
  match i with
  | .latch t => Sys2Proof.Machine.execLatch t s
  | .prebase t => Sys2Proof.Machine.execPrebase t s
  | .measure t => Sys2Proof.Machine.execMeasure t s
  | .zeroBit => Sys2Proof.Machine.execZeroBit s
  | .oneBit => Sys2Proof.Machine.execOneBit s
  | .sync => Sys2Proof.Machine.execSync s
  | .endOfFrame => Sys2Proof.Machine.execEndOfFrame s
  | .noise => Sys2Proof.Machine.execNoise s
  | .advance => Sys2Proof.Machine.execAdvance s
  | .overrun => Sys2Proof.Machine.execOverrun s
  | .crc8 => Sys2Proof.Machine.execCrc8 s
  | .crcStep crc d => Sys2Proof.Machine.execCrcStep crc d s
  | .interpret => Sys2Proof.Machine.execInterpret s
  | .snapshot reader => Sys2Proof.Machine.execSnapshot reader s
  | .reset => Sys2Proof.Machine.execReset s

end Sys2Proof.Machine
end

