-- ==== Sys2Proof/Machine/Fetch.lean ====
section
/-! DEFINITION. Where the next operation comes from: the front of the environment's deliveries (log 1). The block itself has no
program counter and no fetch (10_state.md rule R34, 20_memory.md rule R67). -/

namespace Sys2Proof.Machine

/-- The state once the next delivery has been taken. -/
def State.takeInput (s : State) (rest : List Input) : State := { s with inputs := rest }

/-- The state with one more request in front of everything the environment delivers. -/
def State.deliver (s : State) (r : Request) : State := { s with inputs := .request r :: s.inputs }

/-- The state with the word of a row of the table delivered next. -/
def State.deliverWord (s : State) (nbits w : Nat) : State :=
  match requestOfWord nbits w with
  | .ok r => s.deliver r
  | .error _ => s

end Sys2Proof.Machine
end

