-- ==== Sys2Proof/Machine/Step.lean ====
section
/-! DEFINITION. One step: the next delivery, if there is one, is taken and its operation performed to completion (00_scope.md
rule R3, 20_memory.md rule R61). -/

namespace Sys2Proof.Machine

/-- With nothing delivered the block is idle and holds its state (60_exceptions.md rule R230; log 1). A request is decoded
against `base_valid` (30_encoding.md rule R87) and performed; the queries in progress then see the status registers. -/
def step (s : State) : Host.Outcome State Fault Refusal :=
  match s.inputs with
  | [] => .next s
  | .beginQuery reader :: rest => .next ((s.takeInput rest).openQuery reader)
  | .request r :: rest =>
    match decode s.baseValid r with
    | .ok i => observed (exec i (s.takeInput rest))
    | .error e => .refused (.rejected e)

/-- The word of a row of the table delivered next (log 1, log 2). -/
def State.withFetchWord (s : State) (nbits w : Nat) : State := s.deliverWord nbits w

end Sys2Proof.Machine
end

