-- ==== Sys2Proof/Machine/Stimulus.lean ====
section
/-! DEFINITION. The stimulus notation of 30_encoding.md rules R95, R96 and R98: pulses, bytes and frames as what the environment
delivers. It says nothing of the block; claims about whole transmissions are stated in it. -/

namespace Sys2Proof.Machine

/-- The line `LOW t`. -/
def lowEdge (t : Timestamp) : Input := .request (.edge (eventWord .low t))

/-- The line `HIGH t`. -/
def highEdge (t : Timestamp) : Input := .request (.edge (eventWord .high t))

/-- `PULSE d` at time `T`: a LOW edge, and a HIGH edge `d` microseconds later (rule R96). -/
def pulse (T d : Timestamp) : List Input := [lowEdge T, highEdge (T + d)]

/-- The high time before the next pulse, `GAP` (rule R96): it never reaches the classifier. -/
def gap : Timestamp := 500

/-- Pulses one after the other, each with its time and its duration: the time between them is what the times leave, any
(93_implementation_defined.md U12). -/
def pulsesAt (ps : List (Timestamp × Timestamp)) : List Input := ps.flatMap (fun p => pulse p.1 p.2)

/-- The times of pulses of the given durations from time `T` on, `GAP` apart (rule R96). -/
def schedule (T : Timestamp) : List Timestamp → List (Timestamp × Timestamp)
  | [] => []
  | d :: ds => (T, d) :: schedule (T + d + gap) ds

/-- Pulses of the given durations one after the other, from time `T` on. -/
def pulses (T : Timestamp) (ds : List Timestamp) : List Input := pulsesAt (schedule T ds)

/-- The symbol of one bit. -/
def bitSymbol (v : Bool) : Symbol := if v then .oneBit else .zeroBit

/-- `BYTE b`: its eight bits, bit 0 first (rules R52, R96). -/
def byteSymbols (b : Byte) : List Symbol :=
  [0, 1, 2, 3, 4, 5, 6, 7].map (fun k => bitSymbol (b.getLsbD k))

/-- `FRAME b0 b1 ...`: a SYNC, the bytes, an END_OF_FRAME (rules R96, R98). -/
def frameSymbols (bytes : List Byte) : List Symbol :=
  .sync :: (bytes.flatMap byteSymbols ++ [.endOfFrame])

/-- The midpoint of a symbol's window, the duration of its pseudo-operation (rule R96; D19). NOISE has none there; 1000 is in
no window (rule R91). -/
def nominal : Symbol → Timestamp
  | .zeroBit => 300
  | .oneBit => 600
  | .sync => 2000
  | .endOfFrame => 3000
  | .noise => 1000

/-- `FRAME b0 b1 ...` as edge events from time `T` on. -/
def frameEdges (T : Timestamp) (bytes : List Byte) : List Input :=
  pulses T ((frameSymbols bytes).map nominal)

end Sys2Proof.Machine
end

