-- ==== Sys2Proof/Safety.lean ====
section
/-! DEFINITION. The terms claims are stated in: the block's own part of the state, the symbol-level run, the invariants, and
what counts as a safe run (one that never stops, 60_exceptions.md rule R218). -/

namespace Sys2Proof.Machine

/-! ### The block alone -/

/-- The state with the model's own fields as they are at reset: two states with equal blocks are the same block (10_state.md
rule R20), whatever the environment and the readers do. -/
def State.block (s : State) : State := { s with inputs := [], queries := [], replies := [], freeCount := 0 }

/-- The DecoderState group as a tuple, all of it hidden from a reader (rules R20, R27, R37). -/
def State.hidden (s : State) : Timestamp × Bool × BitIndex × ByteIndex × Memory :=
  (s.lastEdgeTimestampUs, s.baseValid, s.bitCursor, s.byteCursor, s.frameBuffer)

/-- The write position, 0 to 399 (rule R34). -/
def State.position (s : State) : Nat := 8 * s.byteCursor.val + s.bitCursor.val

/-- The state with an edge latched at `t`: what LATCH leaves (rule R111). -/
def State.latchedAt (s : State) (t : Timestamp) : State := { s with lastEdgeTimestampUs := t, baseValid := true }

/-! ### The symbol-level view (rules R88, R95) -/

/-- The operations of a list of symbols, one after the other. -/
def runSymbols : List Symbol → State → Host.Outcome State Fault Refusal
  | [], s => .next s
  | y :: ys, s =>
    match exec y.instr s with
    | .next t => runSymbols ys t
    | .fault r => .fault r
    | .refused r => .refused r

/-- Where a list of bytes lies in the buffer: from index 0 on. -/
def Memory.startsWith (m : Memory) (bytes : List Byte) : Prop := (Memory.bytes m).take bytes.length = bytes

/-! ### Invariants -/

/-- A query in progress has seen the status registers as they stand (rule R63). -/
def State.queriesCurrent (s : State) : Bool :=
  s.queries.all (fun w => decide (w.seen.getLastD w.first = s.status))

/-- What every step keeps: the buffer's canonical form (rule R26; log 6), and the queries in progress up to date. -/
def State.Inv (s : State) : Prop := Memory.wf s.frameBuffer = true ∧ s.queriesCurrent = true

/-- The counters account for every frame (10_state.md rule R33). -/
def Counters.accounted (c : Counters) : Prop :=
  c.framesIncomplete.toNat + c.checksumFailures.toNat ≤ c.framesTotal.toNat

/-- No counter is at the top of its range (rule R33's "while no counter has wrapped"; rule R31). -/
def Counters.belowTop (c : Counters) : Prop := c.framesTotal.toNat + 1 < 2 ^ 32

/-! ### Safe runs (60_exceptions.md rule R218) -/

/-- The deliveries of an environment that keeps to the spec, given the readers whose queries are in progress: no reserved
symbol code (rule R88), no reset during a query (rule R241). Every edge event is allowed (rule R91), in every order. -/
def keepsToSpec (inQuery : List Nat) : List Input → Bool
  | [] => true
  | .beginQuery reader :: rest => keepsToSpec (inQuery ++ [reader]) rest
  | .request (.query reader) :: rest => keepsToSpec (inQuery.erase reader) rest
  | .request .reset :: rest => inQuery.isEmpty && keepsToSpec inQuery rest
  | .request r :: rest => r.wf && keepsToSpec inQuery rest

/-- A state whose environment keeps to the spec. -/
def State.Safe (s : State) : Prop := keepsToSpec (s.queries.map (·.reader)) s.inputs = true

end Sys2Proof.Machine
end

