-- ==== Sys2Proof/Certificates/Slice0/Obligations.lean ====
section
/-! DEFINITION. The statements for the provers. Each docstring names the rule or section of spec/ it formalises; where a clause
is the spec's own decision or the model's choice, it says so. An update written `{ s with … }` states the frame too: every
field it does not name, among them every byte of the buffer, is the same. -/

open Sys2Proof Sys2Proof.Machine

/-! ### Edge capture and the classifier -/

/-- R111: LATCH records the timestamp and sets `base_valid`; all else is unchanged. -/
def Obligations.LatchRecordsTheTimestamp : Prop :=
  ∀ (t : Timestamp) (s : State),
    exec (.latch t) s = .next { s with lastEdgeTimestampUs := t, baseValid := true }

/-- 40_edge_capture_classifier.md section 2, PREBASE (the spec's decision D2): the event is dropped. -/
def Obligations.PrebaseDropsTheEvent : Prop :=
  ∀ (t : Timestamp) (s : State), exec (.prebase t) s = .next s

/-- 40_edge_capture_classifier.md section 2, MEASURE step 1 (the spec's decision D6): the subtraction is modulo 2^64, gives the
elapsed time where the clock did not go back, and gives it across a wrap of the clock. -/
def Obligations.IntervalIsTheModularDifference : Prop :=
  ∀ (t last : Timestamp),
    (last.toNat ≤ t.toNat → (intervalOf t last).toNat = t.toNat - last.toNat) ∧
    (t.toNat < last.toNat → (intervalOf t last).toNat = 2 ^ 64 + t.toNat - last.toNat) ∧
    ∀ d : Timestamp, intervalOf (last + d) last = d

/-- 40_edge_capture_classifier.md section 2, MEASURE step 2, with the boundary convention of the spec's decision D3; NOISE is
exactly the ranges of 30_encoding.md section 6. -/
def Obligations.ClassifierFollowsItsWindows : Prop :=
  ∀ i : Timestamp,
    (classify i = .zeroBit ↔ 200 ≤ i.toNat ∧ i.toNat < 400) ∧
    (classify i = .oneBit ↔ 500 ≤ i.toNat ∧ i.toNat < 700) ∧
    (classify i = .sync ↔ 1900 ≤ i.toNat ∧ i.toNat < 2100) ∧
    (classify i = .endOfFrame ↔ 2900 ≤ i.toNat ∧ i.toNat < 3100) ∧
    (classify i = .noise ↔
      i.toNat ≤ 199 ∨ (400 ≤ i.toNat ∧ i.toNat ≤ 499) ∨ (700 ≤ i.toNat ∧ i.toNat ≤ 1899) ∨
        (2100 ≤ i.toNat ∧ i.toNat ≤ 2899) ∨ 3100 ≤ i.toNat)

/-- 40_edge_capture_classifier.md section 2, MEASURE step 3: with a baseline MEASURE completes, in the state the operation of
the classified symbol leaves, and (the spec's decision D5) the latched timestamp and `base_valid` stay. -/
def Obligations.MeasurePerformsItsSymbol : Prop :=
  ∀ (t : Timestamp) (s : State), s.baseValid = true →
    ∃ u, exec (.measure t) s = .next u ∧
      exec (classify (t - s.lastEdgeTimestampUs)).instr s = .next u ∧
      u.lastEdgeTimestampUs = s.lastEdgeTimestampUs ∧ u.baseValid = true

/-- The model's choice (log 15), after 30_encoding.md section 3: without a baseline the event of MEASURE is dropped. -/
def Obligations.MeasureWithoutBaselineDropsTheEvent : Prop :=
  ∀ (t : Timestamp) (s : State), s.baseValid = false → exec (.measure t) s = .next s

/-- 30_encoding.md section 3, the decode tree: an event in any state selects exactly one leaf, and the step performs that leaf's
operation and completes. Its PREBASE leaf is the spec's decision D2, its half-open windows D3, its subtraction D6 (log 7); that a
LOW edge latches and a HIGH edge measures is the value of the open parameter `MEASURE_LEVEL` (D22; DESIGN CHOICE, log 8, unsafe). -/
def Obligations.EveryEventPerformsOneLeaf : Prop :=
  ∀ (s : State) (rest : List Input) (level : Level) (t : Timestamp),
    s.inputs = .request (.edge (eventWord level t)) :: rest →
    ∃ u, step s = .next (u : State).observe ∧
      exec
        (if level = .low then .latch t
         else if s.baseValid = false then .prebase t
         else
          let interval := (t - s.lastEdgeTimestampUs).toNat
          if 200 ≤ interval ∧ interval < 400 then .zeroBit
          else if 500 ≤ interval ∧ interval < 700 then .oneBit
          else if 1900 ≤ interval ∧ interval < 2100 then .sync
          else if 2900 ≤ interval ∧ interval < 3100 then .endOfFrame
          else .noise)
        { s with inputs := rest } = .next u

/-- 10_state.md sections 2 and 4, the registers `last_edge_timestamp_us` and `base_valid`: only a LOW edge, or reset, writes
either of them. That a HIGH edge never does is the spec's decision D5, that `base_valid` exists and goes with the latch D2 (log 7);
that it is the LOW edge that latches is the value of the open parameter `MEASURE_LEVEL` (D22; DESIGN CHOICE, log 8, unsafe). -/
def Obligations.OnlyLatchWritesTheBaseline : Prop :=
  ∀ s t : State, step s = .next t →
    (t.lastEdgeTimestampUs ≠ s.lastEdgeTimestampUs ∨ t.baseValid ≠ s.baseValid) →
    s.inputs.head? = some (.request .reset) ∨
      ∃ ts : Timestamp, s.inputs.head? = some (.request (.edge (eventWord .low ts))) ∧
        t.lastEdgeTimestampUs = ts ∧ t.baseValid = true

/-! ### The Frame Assembler -/

/-- R130: ZERO_BIT clears bit `bit_cursor` of byte `byte_cursor`, no other bit of the buffer, and then does what ADVANCE does. -/
def Obligations.ZeroBitClearsItsBitThenAdvances : Prop :=
  ∀ s : State, Memory.wf s.frameBuffer = true →
    ∃ (m : Memory) (t : State),
      exec .zeroBit s = .next t ∧ exec .advance { s with frameBuffer := m } = .next t ∧ t.frameBuffer = m ∧
      ∀ (a : ByteIndex) (k : BitIndex),
        (Memory.read m a).getLsbD k.val =
          if a = s.byteCursor ∧ k = s.bitCursor then false else (Memory.read s.frameBuffer a).getLsbD k.val

/-- R131: ONE_BIT sets bit `bit_cursor` of byte `byte_cursor`, no other bit of the buffer, and then does what ADVANCE does. -/
def Obligations.OneBitSetsItsBitThenAdvances : Prop :=
  ∀ s : State, Memory.wf s.frameBuffer = true →
    ∃ (m : Memory) (t : State),
      exec .oneBit s = .next t ∧ exec .advance { s with frameBuffer := m } = .next t ∧ t.frameBuffer = m ∧
      ∀ (a : ByteIndex) (k : BitIndex),
        (Memory.read m a).getLsbD k.val =
          if a = s.byteCursor ∧ k = s.bitCursor then true else (Memory.read s.frameBuffer a).getLsbD k.val

/-- R134 and R136: ADVANCE moves the bit cursor, after bit 7 the byte cursor, and after byte 49 does what OVERRUN does. -/
def Obligations.AdvanceMovesTheWritePosition : Prop :=
  ∀ s : State,
    (s.bitCursor ≠ 7 → exec .advance s = .next { s with bitCursor := s.bitCursor + 1 }) ∧
    (s.bitCursor = 7 → s.byteCursor ≠ 49 →
      exec .advance s = .next { s with bitCursor := 0, byteCursor := s.byteCursor + 1 }) ∧
    (s.bitCursor = 7 → s.byteCursor = 49 → ∃ t, exec .advance s = .next t ∧ exec .overrun s = .next t)

/-- 41_frame_assembler.md section 2, OVERRUN (the spec's decision D7, log 9): both cursors to 0, the frame counted in
`frames_total` and `frames_incomplete`; the buffer and the reading stay. -/
def Obligations.OverrunZeroesTheCursorsAndCounts : Prop :=
  ∀ s : State,
    exec .overrun s = .next
      { s with
        bitCursor := 0, byteCursor := 0,
        counters :=
          { s.counters with
            framesTotal := s.counters.framesTotal + 1, framesIncomplete := s.counters.framesIncomplete + 1 } }

/-- 60_exceptions.md section 1, BufferOverrun (the spec's decision D7, log 9): a bit that completes byte 49 is written first, and
then both cursors are zeroed and both counters moved; nothing else changes. -/
def Obligations.BitCompletingByte49IsWrittenAndOverruns : Prop :=
  ∀ (s : State) (v : Bool), Memory.wf s.frameBuffer = true → s.bitCursor = 7 → s.byteCursor = 49 →
    ∃ t, exec (bitSymbol v).instr s = .next t ∧
      (∀ (a : ByteIndex) (k : BitIndex),
        (t.readByte a).getLsbD k.val = if a = 49 ∧ k = 7 then v else (s.readByte a).getLsbD k.val) ∧
      t =
        { s with
          frameBuffer := t.frameBuffer, bitCursor := 0, byteCursor := 0,
          counters :=
            { s.counters with
              framesTotal := s.counters.framesTotal + 1, framesIncomplete := s.counters.framesIncomplete + 1 } }

/-- R139: SYNC zeroes the cursors and touches nothing else, the buffer's contents among it. -/
def Obligations.SyncZeroesTheCursors : Prop :=
  ∀ s : State, exec .sync s = .next { s with bitCursor := 0, byteCursor := 0 }

/-- R145, R211: NOISE changes no state and moves no counter. -/
def Obligations.NoiseChangesNothing : Prop :=
  ∀ s : State, exec .noise s = .next s

/-- R141: a frame that ends mid-byte is counted, counted incomplete, and goes no further. -/
def Obligations.FrameEndingMidByteIsIncomplete : Prop :=
  ∀ s : State, s.bitCursor ≠ 0 →
    exec .endOfFrame s = .next
      { s with
        counters :=
          { s.counters with
            framesTotal := s.counters.framesTotal + 1, framesIncomplete := s.counters.framesIncomplete + 1 } }

/-- 41_frame_assembler.md section 3, the empty frame (the spec's decision D10): counted as incomplete. -/
def Obligations.EmptyFrameIsIncomplete : Prop :=
  ∀ s : State, s.bitCursor = 0 → s.byteCursor = 0 →
    exec .endOfFrame s = .next
      { s with
        counters :=
          { s.counters with
            framesTotal := s.counters.framesTotal + 1, framesIncomplete := s.counters.framesIncomplete + 1 } }

/-- R166, R213: a whole frame whose CRC differs from its trailing byte is counted and counted as a failure; the reading, the
cursors and the buffer stay. -/
def Obligations.MismatchCountsAndDiscards : Prop :=
  ∀ s : State, s.bitCursor = 0 → s.byteCursor ≠ 0 →
    crc8 ((Memory.bytes s.frameBuffer).take (s.byteCursor.val - 1)) ≠ s.readByte (s.byteCursor - 1) →
    exec .endOfFrame s = .next
      { s with
        counters :=
          { s.counters with
            framesTotal := s.counters.framesTotal + 1, checksumFailures := s.counters.checksumFailures + 1 } }

/-- R167, R183: a whole frame whose CRC equals its trailing byte is counted and its five fields are published; no other counter
moves. -/
def Obligations.PassingFrameIsPublished : Prop :=
  ∀ s : State, s.bitCursor = 0 → s.byteCursor ≠ 0 →
    crc8 ((Memory.bytes s.frameBuffer).take (s.byteCursor.val - 1)) = s.readByte (s.byteCursor - 1) →
    exec .endOfFrame s = .next
      { s with
        counters := { s.counters with framesTotal := s.counters.framesTotal + 1 },
        reading :=
          { boilerTempRaw := s.readByte 4 ++ s.readByte 5
            solarTempRaw := s.readByte 6 ++ s.readByte 7
            boilerHumidityRaw := s.readByte 8 ++ s.readByte 9
            solarHumidityRaw := s.readByte 10 ++ s.readByte 11
            boilerPressureRaw := s.readByte 12 ++ s.readByte 13 } }

/-- END_OF_FRAME always adds one to `frames_total` and never writes a cursor or the buffer (R140); with it, exactly one of: one
more incomplete frame, one more checksum failure, a reading published (R144). That the empty frame is one more incomplete frame is
the spec's decision D10 (log 7). -/
def Obligations.EndOfFrameHasOneOutcome : Prop :=
  ∀ s : State, ∃ t, exec .endOfFrame s = .next t ∧
    t.counters.framesTotal = s.counters.framesTotal + 1 ∧
    t = { s with counters := t.counters, reading := t.reading } ∧
    ((t.counters.framesIncomplete = s.counters.framesIncomplete + 1 ∧
        t.counters.checksumFailures = s.counters.checksumFailures ∧ t.reading = s.reading) ∨
     (t.counters.framesIncomplete = s.counters.framesIncomplete ∧
        t.counters.checksumFailures = s.counters.checksumFailures + 1 ∧ t.reading = s.reading) ∨
     (t.counters.framesIncomplete = s.counters.framesIncomplete ∧
        t.counters.checksumFailures = s.counters.checksumFailures ∧ t.reading = readingOf s.frameBuffer))

/-- 41_frame_assembler.md section 4 (c): a second END_OF_FRAME with no bits in between validates the same bytes again, publishes
the same reading, and counts again. -/
def Obligations.SecondEndOfFrameRepublishes : Prop :=
  ∀ s : State, s.frameFailure = none →
    ∃ t, runSymbols [.endOfFrame, .endOfFrame] s = .next t ∧ t.reading = readingOf s.frameBuffer ∧
      t.counters = { s.counters with framesTotal := s.counters.framesTotal + 2 }

/-- 20_memory.md section 2 (the spec's decision D4): the eight bits of `BYTE b`, bit 0 first, on a byte boundary below byte 49,
leave exactly `b` in the byte under the cursor, every other byte as it was, and the cursor on the next byte. -/
def Obligations.EightBitsAssembleTheirByte : Prop :=
  ∀ (s : State) (b : Byte), Memory.wf s.frameBuffer = true → s.bitCursor = 0 → s.byteCursor ≠ 49 →
    ∃ t, runSymbols (byteSymbols b) s = .next t ∧
      (∀ a : ByteIndex, t.readByte a = if a = s.byteCursor then b else s.readByte a) ∧
      t = { s with frameBuffer := t.frameBuffer, byteCursor := s.byteCursor + 1 }

/-- 41_frame_assembler.md section 4 (with the spec's decision D7): 400 bits from the start of the buffer fill it in arrival order
and cause one OVERRUN, at the last of them. -/
def Obligations.FourHundredBitsCauseOneOverrun : Prop :=
  ∀ (s : State) (bits : List Bool), Memory.wf s.frameBuffer = true → s.position = 0 → bits.length = 400 →
    ∃ t, runSymbols (bits.map bitSymbol) s = .next t ∧
      (∀ (a : ByteIndex) (k : BitIndex), bits[8 * a.val + k.val]? = some ((t.readByte a).getLsbD k.val)) ∧
      t =
        { s with
          frameBuffer := t.frameBuffer,
          counters :=
            { s.counters with
              framesTotal := s.counters.framesTotal + 1, framesIncomplete := s.counters.framesIncomplete + 1 } }

/-- 10_state.md section 2, the frame buffer's contents: but for reset, one step changes at most one bit of one byte, the bit at the
write position, and it leaves the buffer as it was unless the operation it performs is ZERO_BIT or ONE_BIT, delivered as such or
reached by a MEASURE that classifies its interval so. SYNC, END_OF_FRAME, NOISE, LATCH, PREBASE and the readers do not touch it. -/
def Obligations.OneStepChangesAtMostOneBit : Prop :=
  ∀ s t : State, Memory.wf s.frameBuffer = true → step s = .next t →
    s.inputs.head? ≠ some (.request .reset) →
    (∀ (a : ByteIndex) (k : BitIndex), ¬(a = s.byteCursor ∧ k = s.bitCursor) →
      (t.readByte a).getLsbD k.val = (s.readByte a).getLsbD k.val) ∧
    (t.frameBuffer ≠ s.frameBuffer →
      ∃ (r : Request) (i : Instr), s.inputs.head? = some (.request r) ∧ decode s.baseValid r = .ok i ∧
        (i = .zeroBit ∨ i = .oneBit ∨ ∃ ts : Timestamp, i = .measure ts ∧
          (classify (ts - s.lastEdgeTimestampUs) = .zeroBit ∨ classify (ts - s.lastEdgeTimestampUs) = .oneBit)))

/-! ### The Checksum Validator -/

/-- R162: the feedback bit is bit 0 xor the data bit; it becomes bit 7, and flips what the shift brings to bits 3 and 2. -/
def Obligations.LfsrStepBitByBit : Prop :=
  ∀ (crc : Byte) (d : Bool) (k : BitIndex),
    (lfsrStep crc d).getLsbD k.val =
      if k = 7 then Bool.xor (crc.getLsbD 0) d
      else if k = 3 ∨ k = 2 then Bool.xor (crc.getLsbD (k.val + 1)) (Bool.xor (crc.getLsbD 0) d)
      else crc.getLsbD (k.val + 1)

/-- The model's choice (log 4), after 42_crc_validator.md section 2: CRC_STEP as an operation of its own returns the value of the
step and writes no element of the block. -/
def Obligations.CrcStepReturnsTheStep : Prop :=
  ∀ (crc : Byte) (d : Bool) (s : State),
    exec (.crcStep crc d) s = .next { s with replies := .crcValue (lfsrStep crc d) :: s.replies }

/-- 42_crc_validator.md section 2, CRC8 (`crc8` itself is `CrcConsumesBitsInArrivalOrder`): it compares the CRC of the first `n - 1` bytes
with byte `n - 1`, all eight bits; equal, it does what INTERPRET does, else it raises ChecksumMismatch. -/
def Obligations.CrcComparesPayloadWithTrailingByte : Prop :=
  ∀ s : State, s.byteCursor ≠ 0 →
    (crc8 ((Memory.bytes s.frameBuffer).take (s.byteCursor.val - 1)) = s.readByte (s.byteCursor - 1) →
      ∃ t, exec .crc8 s = .next t ∧ exec .interpret s = .next t) ∧
    (crc8 ((Memory.bytes s.frameBuffer).take (s.byteCursor.val - 1)) ≠ s.readByte (s.byteCursor - 1) →
      exec .crc8 s = .next
        { s with counters := { s.counters with checksumFailures := s.counters.checksumFailures + 1 } })

/-- The model's choice (log 16): CRC8 with no byte, which no operation invokes, is refused. -/
def Obligations.CrcOfNoByteIsRefused : Prop :=
  ∀ s : State, s.byteCursor = 0 → exec .crc8 s = .refused .crcOfNoByte

/-- 42_crc_validator.md section 2 (the spec's decisions D8, D9): `crc8` feeds the LFSR, started at 0, the bits of the bytes in
ascending order and bit 0 first, the order of their arrival. -/
def Obligations.CrcConsumesBitsInArrivalOrder : Prop :=
  ∀ bytes : List Byte,
    crc8 bytes = (bytes.flatMap (fun b => (List.range 8).map b.getLsbD)).foldl lfsrStep 0#8

/-- 42_crc_validator.md section 4, residue (with the spec's decision D8, log 10): the CRC of a payload followed by its own
checksum is 0, so a valid frame in front of other bytes changes nothing (41_frame_assembler.md section 4 (d)). -/
def Obligations.CrcResidueIsZero : Prop :=
  ∀ p q : List Byte, crc8 (p ++ [crc8 p]) = 0#8 ∧ crc8 (p ++ crc8 p :: q) = crc8 q

/-- 42_crc_validator.md section 4, corner cases (b), (c) (with the spec's decision D8, log 10): leading zero bytes change nothing,
and all-zero payloads have CRC 0. -/
def Obligations.LeadingZeroBytesDoNotChangeTheCrc : Prop :=
  ∀ (n : Nat) (p : List Byte), crc8 (List.replicate n 0#8 ++ p) = crc8 p ∧ crc8 (List.replicate n 0#8) = 0#8

/-- 42_crc_validator.md section 4, round trip: consuming `b` from `c` is consuming 0 from `c ^ b`, so the CRC can be computed a
byte at a time from the CRCs of single bytes (95_test_vectors.md section V-CRC). It holds for every start value of the whole, but
taking the table's entry as `crc8` of one byte rests on `CRC_INIT` = 0 (the open parameter U17, D8; DESIGN CHOICE, log 10, unsafe). -/
def Obligations.CrcByteAtATimeTwin : Prop :=
  ∀ (init b : Byte) (p : List Byte), crc8From init (b :: p) = crc8From (crc8 [init ^^^ b]) p

/-- 42_crc_validator.md section 4, single-bit errors, for every `CRC_INIT` (93_implementation_defined.md U17): flipping one bit of
one payload byte changes the CRC. -/
def Obligations.EverySingleBitErrorChangesTheCrc : Prop :=
  ∀ (init : Byte) (p : List Byte) (i : Nat) (k : BitIndex), i < p.length →
    crc8From init (p.modify i (· ^^^ (1#8 <<< k.val))) ≠ crc8From init p

/-! ### The Frame Interpreter and the status registers -/

/-- R183: INTERPRET publishes the five big-endian fields at offsets 4, 6, 8, 10, 12 and nothing else. -/
def Obligations.InterpretPublishesFiveFields : Prop :=
  ∀ s : State,
    exec .interpret s = .next
      { s with
        reading :=
          { boilerTempRaw := s.readByte 4 ++ s.readByte 5
            solarTempRaw := s.readByte 6 ++ s.readByte 7
            boilerHumidityRaw := s.readByte 8 ++ s.readByte 9
            solarHumidityRaw := s.readByte 10 ++ s.readByte 11
            boilerPressureRaw := s.readByte 12 ++ s.readByte 13 } }

/-- 43_frame_interpreter.md section 1: but for reset, the reading changes only where an END_OF_FRAME, as an event or as a symbol, finds a byte boundary, at
least one byte, and the CRC equal to the trailing byte; it is then the fields of the buffer. The ends of the window are the spec's
decision D3, the exclusion of the empty frame D10 (log 7); that the event is a HIGH edge is the value of the open parameter
`MEASURE_LEVEL` (D22; DESIGN CHOICE, log 8, unsafe), that a symbol's code 4 is END_OF_FRAME D18 (log 11). -/
def Obligations.OnlyAPassingFrameChangesTheReading : Prop :=
  ∀ s t : State, step s = .next t → t.reading ≠ s.reading →
    s.inputs.head? = some (.request .reset) ∨
      ((s.inputs.head? = some (.request (.symbol 4)) ∨
        ∃ ts : Timestamp, s.inputs.head? = some (.request (.edge (eventWord .high ts))) ∧ s.baseValid = true ∧
          2900 ≤ (ts - s.lastEdgeTimestampUs).toNat ∧ (ts - s.lastEdgeTimestampUs).toNat < 3100) ∧
       s.bitCursor = 0 ∧ s.byteCursor ≠ 0 ∧
       crc8 ((Memory.bytes s.frameBuffer).take (s.byteCursor.val - 1)) = s.readByte (s.byteCursor - 1) ∧
       t.reading = readingOf s.frameBuffer)

/-- 10_state.md section 5 (the spec's inference R33): but for reset, a step leaves the counters and the reading alone, or counts
one frame and with it exactly one of an incomplete frame, a checksum failure and a publication, so that the number of passed
frames moves exactly with a publication. -/
def Obligations.EveryCountedFrameHasOneOutcome : Prop :=
  ∀ s t : State, step s = .next t → s.inputs.head? ≠ some (.request .reset) →
    (t.counters = s.counters ∧ t.reading = s.reading) ∨
    (t.counters.framesTotal = s.counters.framesTotal + 1 ∧
      ((t.reading = s.reading ∧ t.counters.framesPassed = s.counters.framesPassed ∧
        ((t.counters.framesIncomplete = s.counters.framesIncomplete + 1 ∧
          t.counters.checksumFailures = s.counters.checksumFailures) ∨
         (t.counters.framesIncomplete = s.counters.framesIncomplete ∧
          t.counters.checksumFailures = s.counters.checksumFailures + 1))) ∨
       (t.reading = readingOf s.frameBuffer ∧ t.counters.framesPassed = s.counters.framesPassed + 1 ∧
        t.counters.framesIncomplete = s.counters.framesIncomplete ∧
        t.counters.checksumFailures = s.counters.checksumFailures)))

/-- 10_state.md section 5 (the spec's inference R33): while no counter wraps, the failures never exceed the frames. -/
def Obligations.FailuresNeverExceedFrames : Prop :=
  ∀ s t : State, s.counters.accounted → s.counters.belowTop → step s = .next t → t.counters.accounted

/-- 60_exceptions.md sections 1 and 2, the table of the failure classes (FC2's empty frame and FC4 with the spec's decisions D10,
D7): what each failure records, and that it does nothing else; at most one is raised by an operation. With BufferOverrun the bit that
completes byte 49 has been written (log 9): every other bit of the buffer reads as before. -/
def Obligations.FailuresRecordTheirRow : Prop :=
  ∀ (y : Symbol) (s : State), ∃ t, exec y.instr s = .next t ∧
    (s.symbolFailure y = some .noiseInterval → t = s) ∧
    (s.symbolFailure y = some .incompleteFrame →
      t = { s with
        counters :=
          { s.counters with
            framesTotal := s.counters.framesTotal + 1, framesIncomplete := s.counters.framesIncomplete + 1 } }) ∧
    (s.symbolFailure y = some .checksumMismatch →
      t = { s with
        counters :=
          { s.counters with
            framesTotal := s.counters.framesTotal + 1, checksumFailures := s.counters.checksumFailures + 1 } }) ∧
    (s.symbolFailure y = some .bufferOverrun → ∃ v, y = bitSymbol v ∧
      (Memory.wf s.frameBuffer = true → ∀ (a : ByteIndex) (k : BitIndex),
        (t.readByte a).getLsbD k.val =
          if a = s.byteCursor ∧ k = s.bitCursor then v else (s.readByte a).getLsbD k.val) ∧
      t = { s with
        frameBuffer := t.frameBuffer, bitCursor := 0, byteCursor := 0,
        counters :=
          { s.counters with
            framesTotal := s.counters.framesTotal + 1, framesIncomplete := s.counters.framesIncomplete + 1 } }) ∧
    (s.symbolFailure y = none →
      t.counters.framesIncomplete = s.counters.framesIncomplete ∧
      t.counters.checksumFailures = s.counters.checksumFailures)

/-- 10_state.md section 5, the reader's interpretation (the spec's decision D15, log 14): two's complement of the whole. -/
def Obligations.RawFieldsAreTwosComplement : Prop :=
  ∀ p : Field, fieldTenths p = if p.toNat < 2 ^ 15 then (p.toNat : Int) else (p.toNat : Int) - 2 ^ 16

/-! ### The query -/

/-- R200: a query always completes, returns one result and writes nothing of the block; one that has not been in progress returns
exactly the eight status registers as they stand, and changes nothing else of the model's own either. What one in progress may
return is `OverlappingSnapshotReturnsSeenValues`. -/
def Obligations.SnapshotReturnsTheStatusRegisters : Prop :=
  ∀ (reader : Nat) (s : State),
    (∃ (t : State) (r : Status), exec (.snapshot reader) s = .next t ∧ t.block = s.block ∧
      t.replies = .snapshot reader r :: s.replies) ∧
    ((∀ w ∈ s.queries, w.reader ≠ reader) →
      exec (.snapshot reader) s = .next
        { s with replies := .snapshot reader { reading := s.reading, counters := s.counters } :: s.replies })

/-- 20_memory.md section 7 (the spec's decision D16, log 3): a query in progress returns a reading it has seen, whole, and of each
counter a value it has seen; it ends, and writes nothing of the block. -/
def Obligations.OverlappingSnapshotReturnsSeenValues : Prop :=
  ∀ (reader : Nat) (s : State) (w : QueryWindow), s.queryOf reader = some w →
    ∃ r : Status,
      exec (.snapshot reader) s = .next
        { s with
          replies := .snapshot reader r :: s.replies
          queries := s.queries.eraseP (fun v => v.reader = reader)
          freeCount := s.freeCount + 4 } ∧
      (∃ v ∈ w.seen, r.reading = v.reading) ∧
      (∃ v ∈ w.seen, r.counters.framesTotal = v.counters.framesTotal) ∧
      (∃ v ∈ w.seen, r.counters.framesIncomplete = v.counters.framesIncomplete) ∧
      (∃ v ∈ w.seen, r.counters.checksumFailures = v.counters.checksumFailures)

/-- 20_memory.md section 7 (the spec's inference R66): a query that has begun but overlapped nothing returns exactly the current
values. -/
def Obligations.QuietQueryReturnsCurrentValues : Prop :=
  ∀ (reader : Nat) (s : State) (rest : List Input), (∀ w ∈ s.queries, w.reader ≠ reader) →
    s.inputs = .beginQuery reader :: .request (.query reader) :: rest →
    ∃ t, Sys2Proof.core.run 2 s = .next t ∧ t.inputs = rest ∧ t.block = s.block ∧
      t.replies = .snapshot reader { reading := s.reading, counters := s.counters } :: s.replies

/-- 20_memory.md section 6, the single writer: only the edge handler and reset write an element of the block; a reader never writes.
That a symbol's code, delivered in place of an edge event by a symbol-level driver, writes as the edge handler does is the model's
choice (30_encoding.md sections 4 and 8; DESIGN CHOICE, log 11). -/
def Obligations.ReadersNeverWriteTheBlock : Prop :=
  ∀ s t : State, step s = .next t → t.block ≠ s.block →
    s.inputs.head? = some (.request .reset) ∨ (∃ word, s.inputs.head? = some (.request (.edge word))) ∨
      ∃ code, s.inputs.head? = some (.request (.symbol code))

/-- 20_memory.md sections 6 and 7: what the readers do has no influence on the block. The same deliveries without any query leave
the same block. -/
def Obligations.QueriesDoNotInfluenceTheBlock : Prop :=
  ∀ (s t : State), Sys2Proof.core.run s.inputs.length s = .next t →
    let quiet := s.inputs.filter (fun x =>
      match x with
      | .beginQuery _ => false
      | .request (.query _) => false
      | _ => true)
    ∃ u, Sys2Proof.core.run quiet.length { s with inputs := quiet, queries := [] } = .next u ∧ u.block = t.block

/-! ### Reset -/

/-- 10_state.md section 8 (for the reading and the counters the spec's decision D13, for `base_valid` D2, log 7): after reset every
element of the block is zero; the model's own fields are empty (log 1, 3, 4). -/
def Obligations.ResetStateIsAllZero : Prop :=
  State.reset.lastEdgeTimestampUs = 0 ∧ State.reset.baseValid = false ∧ State.reset.bitCursor = 0 ∧
    State.reset.byteCursor = 0 ∧ (∀ a : ByteIndex, State.reset.readByte a = 0) ∧
    State.reset.reading = ⟨0, 0, 0, 0, 0⟩ ∧ State.reset.counters = ⟨0, 0, 0⟩ ∧ State.reset.inputs = [] ∧
    State.reset.queries = [] ∧ State.reset.replies = []

/-- 70_reset_and_hazards.md section 1 (for the reading and the counters the spec's decision D13, for `base_valid` D2; log 7; that
the model's own fields stay is its choice, log 12): outside a query RESET writes zero to every element of the block. -/
def Obligations.ResetZeroesTheBlock : Prop :=
  ∀ s : State, s.queries = [] →
    ∃ t, exec .reset s = .next t ∧ t.block = State.reset.block ∧
      t.inputs = s.inputs ∧ t.queries = s.queries ∧ t.replies = s.replies ∧ t.freeCount = s.freeCount

/-- 70_reset_and_hazards.md section 1 (the spec's decision D20; log 12): a reset during a query is not defined, and refused. -/
def Obligations.ResetDuringAQueryIsRefused : Prop :=
  ∀ s : State, s.queries ≠ [] → exec .reset s = .refused .resetDuringQuery

/-! ### The step, the encodings, the invariants -/

/-- The step (log 1): a request at the front of the deliveries that decodes to an operation is taken, the operation performed,
and the queries in progress see the status registers it leaves. -/
def Obligations.StepPerformsTheDecodedOperation : Prop :=
  ∀ (s : State) (r : Request) (rest : List Input) (i : Instr),
    s.inputs = .request r :: rest → decode s.baseValid r = .ok i →
    step s =
      match exec i { s with inputs := rest } with
      | .next t => .next { t with queries := t.queries.map (fun w => w.see { reading := t.reading, counters := t.counters }) }
      | .fault f => .fault f
      | .refused e => .refused e

/-- 60_exceptions.md section 8 and log 1, log 3: with nothing delivered the block holds its state; the beginning of a query
records the status registers and nothing else. -/
def Obligations.StepWithoutARequest : Prop :=
  ∀ s : State,
    (s.inputs = [] → step s = .next s) ∧
    ∀ (reader : Nat) (rest : List Input), s.inputs = .beginQuery reader :: rest →
      step s = .next
        { s with
          inputs := rest
          queries := s.queries ++ [⟨reader, { reading := s.reading, counters := s.counters }, []⟩] }

/-- 93_implementation_defined.md U9 (the spec's decision D18, log 11): a reserved symbol code is refused by name. -/
def Obligations.ReservedSymbolCodesAreRefused : Prop :=
  ∀ (s : State) (code : SymbolCode) (rest : List Input), s.inputs = .request (.symbol code) :: rest →
    5 ≤ code.toNat → step s = .refused (.rejected (.reservedSymbolCode code))

/-- 30_encoding.md sections 1, 3 and 4: words written out from the event word's and the symbol's encodings decode to what they
stand for. The event word is the spec's decision D17, the symbol codes D18; that 72 bits are read as an event word and 8 as a symbol
code is the model's choice (log 2), that level LOW is LATCH the value of the open parameter `MEASURE_LEVEL` (D22; DESIGN CHOICE,
log 8, unsafe), that code 5 is rejected the treatment of U9 (log 11). -/
def Obligations.WordsDecodeAsTheSpecEncodesThem : Prop :=
  decodeWord false 72 0x000000000000003E8 = .ok (.latch 1000) ∧
    decodeWord true 72 0x1000000000000BB8 = .ok (.latch 0x1000000000000BB8) ∧
    decodeWord false 72 0x10000000000000BB8 = .ok (.prebase 3000) ∧
    decodeWord true 72 0x10000000000000BB8 = .ok (.measure 3000) ∧
    decodeWord true 8 0b001 = .ok .zeroBit ∧ decodeWord true 8 0b010 = .ok .oneBit ∧
    decodeWord true 8 0b011 = .ok .sync ∧ decodeWord true 8 0b100 = .ok .endOfFrame ∧
    decodeWord true 8 0b000 = .ok .noise ∧
    decodeWord true 8 0b101 = .error (.reservedSymbolCode 5)

/-- 30_encoding.md sections 1, 3, 4 and 5: every operation that can be asked for has a request, that request decodes to it under
the `base_valid` its row requires, and the request's bits, where it has any, are read back as the request. -/
def Obligations.DecodeInvertsEncode : Prop :=
  ∀ (i : Instr) (baseValid : Bool), i.wf = true → i.fitsBase baseValid = true →
    ∃ r, encode i = some r ∧ r.wf = true ∧ decode baseValid r = .ok i ∧
      ∀ nbits w : Nat, r.word = some (nbits, w) → w < 2 ^ nbits ∧ requestOfWord nbits w = .ok r ∧
        decodeWord baseValid nbits w = .ok i

/-- 30_encoding.md sections 3, 4 and 6: no bit of a request is dropped by the decoder. What it reads is an operation that can be
asked for, fits `base_valid`, and encodes to the very request; only the codes 5 to 7 are rejected. The codes are the spec's decision
D18 (section 4); that 5 to 7 are rejected is the treatment of U9 (log 11). -/
def Obligations.EncodeInvertsDecode : Prop :=
  ∀ (r : Request) (baseValid : Bool),
    (∀ i, decode baseValid r = .ok i → i.wf = true ∧ i.fitsBase baseValid = true ∧ encode i = some r) ∧
    (r.wf = true ↔ ∃ i, decode baseValid r = .ok i)

/-- The invariant at reset: the buffer's canonical form (log 6) and the queries in progress up to date (log 3). -/
def Obligations.InvariantHoldsAtReset : Prop := State.reset.Inv

/-- Every step keeps the invariant: the buffer's canonical form (20_memory.md section 1; log 6), and that every query in progress
has seen the status registers as they stand (20_memory.md section 7; log 3). -/
def Obligations.EveryStepKeepsTheInvariant : Prop :=
  ∀ s t : State, s.Inv → step s = .next t → t.Inv

/-- Equal buffers are equal data (log 6): two buffers in canonical form that read the same at every index are the same list. -/
def Obligations.BuffersThatReadTheSameAreEqual : Prop :=
  ∀ m m' : Memory, Memory.wf m = true → Memory.wf m' = true →
    (∀ a : ByteIndex, Memory.read m a = Memory.read m' a) → m = m'

/-! ### Whole transmissions -/

/-- 60_exceptions.md section 2 (the spec's inference R218): whatever an environment that keeps to the spec delivers, in whatever
order and with whatever timestamps, the machine never stops. -/
def Obligations.NoDeliveryStopsTheDecoder : Prop :=
  ∀ (s : State) (n : Nat), s.Safe → ∃ t, Sys2Proof.core.run n s = .next t

/-- 30_encoding.md section 8 and 40_edge_capture_classifier.md sections 2 and 3: the events of pulses of any durations, at any times,
across a wrap of the clock too, leave what the symbols of those durations leave at the symbol level, and the timestamp of the last
LOW edge. So the time from a HIGH edge to the next LOW edge, which the times leave free (93_implementation_defined.md U12), has no
effect. Queries in progress stay, whatever they see. The notation PULSE is the spec's decision D19, the wrap D6, that the HIGH edge
keeps the timestamp D5 (log 7); that a LOW and then a HIGH edge measure a pulse is the value of the open parameter `MEASURE_LEVEL`
(D22; DESIGN CHOICE, log 8, unsafe). -/
def Obligations.PulsesPerformTheirSymbols : Prop :=
  ∀ (ps : List (Timestamp × Timestamp)) (s : State) (rest : List Input), s.inputs = pulsesAt ps ++ rest →
    ∃ t u : State, Sys2Proof.core.run (2 * ps.length) s = .next t ∧
      runSymbols (ps.map (fun p => classify p.2)) s = .next u ∧
      t = { u with
        lastEdgeTimestampUs := (ps.getLast?.map Prod.fst).getD s.lastEdgeTimestampUs
        baseValid := s.baseValid || !ps.isEmpty
        inputs := rest
        queries := t.queries } ∧
      t.queries.map (fun w => (w.reader, w.first)) = s.queries.map (fun w => (w.reader, w.first))

/-- 60_exceptions.md section 5 (the spec's inference R223): from any state with a buffer in canonical form, whatever its history,
a SYNC, the bits of any `n` bytes, 1 to 49, the last of which is the CRC of the others, and an END_OF_FRAME publish: the buffer
starts with those bytes, the rest of it is as before, the reading is that of the buffer, and of the counters only
`frames_total` moves. -/
def Obligations.AValidFrameIsAlwaysPublished : Prop :=
  ∀ (s : State) (payload : List Byte), Memory.wf s.frameBuffer = true → payload.length ≤ 48 →
    ∃ t, runSymbols (frameSymbols (payload ++ [crc8 payload])) s = .next t ∧
      (Memory.bytes t.frameBuffer) =
        payload ++ [crc8 payload] ++ (Memory.bytes s.frameBuffer).drop (payload.length + 1) ∧
      t = { s with
        bitCursor := 0, byteCursor := t.byteCursor, frameBuffer := t.frameBuffer
        reading := readingOf t.frameBuffer
        counters := { s.counters with framesTotal := s.counters.framesTotal + 1 } } ∧
      t.byteCursor.val = payload.length + 1

/-- The same at the interface of the block (30_encoding.md section 8, 60_exceptions.md section 5): the edge events of such a frame,
from any state, during queries too, and from any time on, are published by the machine itself. The bits' order is the spec's
decision D4 (log 7), the notation FRAME D19; that its events are pulses of a LOW and then a HIGH edge is the value of the open
parameter `MEASURE_LEVEL` (D22; DESIGN CHOICE, log 8, unsafe). -/
def Obligations.AValidTransmissionIsAlwaysPublished : Prop :=
  ∀ (s : State) (payload : List Byte) (T : Timestamp), Memory.wf s.frameBuffer = true → payload.length ≤ 48 →
    s.inputs = frameEdges T (payload ++ [crc8 payload]) →
    ∃ t, Sys2Proof.core.run s.inputs.length s = .next t ∧ t.inputs = [] ∧
      Memory.bytes t.frameBuffer =
        payload ++ [crc8 payload] ++ (Memory.bytes s.frameBuffer).drop (payload.length + 1) ∧
      t.reading = readingOf t.frameBuffer ∧
      t.counters = { s.counters with framesTotal := s.counters.framesTotal + 1 }
end

