-- ==== Sys2Proof/Laws/State.lean ====
section
/-! SUPPORT. What each named update of the state leaves in each field: one lemma per field per update, so that no later proof
unfolds a record update. -/

namespace Sys2Proof.Machine

/-! ### `writeByte` -/

@[simp] theorem State.writeByte_lastEdgeTimestampUs (s : State) (a : ByteIndex) (v : Byte) :
    (s.writeByte a v).lastEdgeTimestampUs = s.lastEdgeTimestampUs := rfl
@[simp] theorem State.writeByte_baseValid (s : State) (a : ByteIndex) (v : Byte) :
    (s.writeByte a v).baseValid = s.baseValid := rfl
@[simp] theorem State.writeByte_bitCursor (s : State) (a : ByteIndex) (v : Byte) :
    (s.writeByte a v).bitCursor = s.bitCursor := rfl
@[simp] theorem State.writeByte_byteCursor (s : State) (a : ByteIndex) (v : Byte) :
    (s.writeByte a v).byteCursor = s.byteCursor := rfl
@[simp] theorem State.writeByte_frameBuffer (s : State) (a : ByteIndex) (v : Byte) :
    (s.writeByte a v).frameBuffer = Memory.write s.frameBuffer a v := rfl
@[simp] theorem State.writeByte_reading (s : State) (a : ByteIndex) (v : Byte) : (s.writeByte a v).reading = s.reading := rfl
@[simp] theorem State.writeByte_counters (s : State) (a : ByteIndex) (v : Byte) :
    (s.writeByte a v).counters = s.counters := rfl
@[simp] theorem State.writeByte_inputs (s : State) (a : ByteIndex) (v : Byte) : (s.writeByte a v).inputs = s.inputs := rfl
@[simp] theorem State.writeByte_queries (s : State) (a : ByteIndex) (v : Byte) : (s.writeByte a v).queries = s.queries := rfl
@[simp] theorem State.writeByte_replies (s : State) (a : ByteIndex) (v : Byte) : (s.writeByte a v).replies = s.replies := rfl
@[simp] theorem State.writeByte_freeCount (s : State) (a : ByteIndex) (v : Byte) :
    (s.writeByte a v).freeCount = s.freeCount := rfl

/-! ### `writeBit` -/

@[simp] theorem State.writeBit_lastEdgeTimestampUs (s : State) (v : Bool) :
    (s.writeBit v).lastEdgeTimestampUs = s.lastEdgeTimestampUs := rfl
@[simp] theorem State.writeBit_baseValid (s : State) (v : Bool) : (s.writeBit v).baseValid = s.baseValid := rfl
@[simp] theorem State.writeBit_bitCursor (s : State) (v : Bool) : (s.writeBit v).bitCursor = s.bitCursor := rfl
@[simp] theorem State.writeBit_byteCursor (s : State) (v : Bool) : (s.writeBit v).byteCursor = s.byteCursor := rfl
@[simp] theorem State.writeBit_frameBuffer (s : State) (v : Bool) :
    (s.writeBit v).frameBuffer = Memory.write s.frameBuffer s.byteCursor (withBit (Memory.read s.frameBuffer s.byteCursor) s.bitCursor v) := rfl
@[simp] theorem State.writeBit_reading (s : State) (v : Bool) : (s.writeBit v).reading = s.reading := rfl
@[simp] theorem State.writeBit_counters (s : State) (v : Bool) : (s.writeBit v).counters = s.counters := rfl
@[simp] theorem State.writeBit_inputs (s : State) (v : Bool) : (s.writeBit v).inputs = s.inputs := rfl
@[simp] theorem State.writeBit_queries (s : State) (v : Bool) : (s.writeBit v).queries = s.queries := rfl
@[simp] theorem State.writeBit_replies (s : State) (v : Bool) : (s.writeBit v).replies = s.replies := rfl
@[simp] theorem State.writeBit_freeCount (s : State) (v : Bool) : (s.writeBit v).freeCount = s.freeCount := rfl

/-! ### `zeroCursors` -/

@[simp] theorem State.zeroCursors_lastEdgeTimestampUs (s : State) :
    s.zeroCursors.lastEdgeTimestampUs = s.lastEdgeTimestampUs := rfl
@[simp] theorem State.zeroCursors_baseValid (s : State) : s.zeroCursors.baseValid = s.baseValid := rfl
@[simp] theorem State.zeroCursors_bitCursor (s : State) : s.zeroCursors.bitCursor = 0 := rfl
@[simp] theorem State.zeroCursors_byteCursor (s : State) : s.zeroCursors.byteCursor = 0 := rfl
@[simp] theorem State.zeroCursors_frameBuffer (s : State) : s.zeroCursors.frameBuffer = s.frameBuffer := rfl
@[simp] theorem State.zeroCursors_reading (s : State) : s.zeroCursors.reading = s.reading := rfl
@[simp] theorem State.zeroCursors_counters (s : State) : s.zeroCursors.counters = s.counters := rfl
@[simp] theorem State.zeroCursors_inputs (s : State) : s.zeroCursors.inputs = s.inputs := rfl
@[simp] theorem State.zeroCursors_queries (s : State) : s.zeroCursors.queries = s.queries := rfl
@[simp] theorem State.zeroCursors_replies (s : State) : s.zeroCursors.replies = s.replies := rfl
@[simp] theorem State.zeroCursors_freeCount (s : State) : s.zeroCursors.freeCount = s.freeCount := rfl

/-! ### `countFrame` -/

@[simp] theorem State.countFrame_lastEdgeTimestampUs (s : State) :
    s.countFrame.lastEdgeTimestampUs = s.lastEdgeTimestampUs := rfl
@[simp] theorem State.countFrame_baseValid (s : State) : s.countFrame.baseValid = s.baseValid := rfl
@[simp] theorem State.countFrame_bitCursor (s : State) : s.countFrame.bitCursor = s.bitCursor := rfl
@[simp] theorem State.countFrame_byteCursor (s : State) : s.countFrame.byteCursor = s.byteCursor := rfl
@[simp] theorem State.countFrame_frameBuffer (s : State) : s.countFrame.frameBuffer = s.frameBuffer := rfl
@[simp] theorem State.countFrame_reading (s : State) : s.countFrame.reading = s.reading := rfl
@[simp] theorem State.countFrame_counters (s : State) :
    s.countFrame.counters = { s.counters with framesTotal := s.counters.framesTotal + 1 } := rfl
@[simp] theorem State.countFrame_inputs (s : State) : s.countFrame.inputs = s.inputs := rfl
@[simp] theorem State.countFrame_queries (s : State) : s.countFrame.queries = s.queries := rfl
@[simp] theorem State.countFrame_replies (s : State) : s.countFrame.replies = s.replies := rfl
@[simp] theorem State.countFrame_freeCount (s : State) : s.countFrame.freeCount = s.freeCount := rfl

/-! ### `countIncomplete` -/

@[simp] theorem State.countIncomplete_lastEdgeTimestampUs (s : State) :
    s.countIncomplete.lastEdgeTimestampUs = s.lastEdgeTimestampUs := rfl
@[simp] theorem State.countIncomplete_baseValid (s : State) : s.countIncomplete.baseValid = s.baseValid := rfl
@[simp] theorem State.countIncomplete_bitCursor (s : State) : s.countIncomplete.bitCursor = s.bitCursor := rfl
@[simp] theorem State.countIncomplete_byteCursor (s : State) : s.countIncomplete.byteCursor = s.byteCursor := rfl
@[simp] theorem State.countIncomplete_frameBuffer (s : State) : s.countIncomplete.frameBuffer = s.frameBuffer := rfl
@[simp] theorem State.countIncomplete_reading (s : State) : s.countIncomplete.reading = s.reading := rfl
@[simp] theorem State.countIncomplete_counters (s : State) :
    s.countIncomplete.counters = { s.counters with framesIncomplete := s.counters.framesIncomplete + 1 } := rfl
@[simp] theorem State.countIncomplete_inputs (s : State) : s.countIncomplete.inputs = s.inputs := rfl
@[simp] theorem State.countIncomplete_queries (s : State) : s.countIncomplete.queries = s.queries := rfl
@[simp] theorem State.countIncomplete_replies (s : State) : s.countIncomplete.replies = s.replies := rfl
@[simp] theorem State.countIncomplete_freeCount (s : State) : s.countIncomplete.freeCount = s.freeCount := rfl

/-! ### `countChecksumFailure` -/

@[simp] theorem State.countChecksumFailure_lastEdgeTimestampUs (s : State) :
    s.countChecksumFailure.lastEdgeTimestampUs = s.lastEdgeTimestampUs := rfl
@[simp] theorem State.countChecksumFailure_baseValid (s : State) : s.countChecksumFailure.baseValid = s.baseValid := rfl
@[simp] theorem State.countChecksumFailure_bitCursor (s : State) : s.countChecksumFailure.bitCursor = s.bitCursor := rfl
@[simp] theorem State.countChecksumFailure_byteCursor (s : State) : s.countChecksumFailure.byteCursor = s.byteCursor := rfl
@[simp] theorem State.countChecksumFailure_frameBuffer (s : State) :
    s.countChecksumFailure.frameBuffer = s.frameBuffer := rfl
@[simp] theorem State.countChecksumFailure_reading (s : State) : s.countChecksumFailure.reading = s.reading := rfl
@[simp] theorem State.countChecksumFailure_counters (s : State) :
    s.countChecksumFailure.counters = { s.counters with checksumFailures := s.counters.checksumFailures + 1 } := rfl
@[simp] theorem State.countChecksumFailure_inputs (s : State) : s.countChecksumFailure.inputs = s.inputs := rfl
@[simp] theorem State.countChecksumFailure_queries (s : State) : s.countChecksumFailure.queries = s.queries := rfl
@[simp] theorem State.countChecksumFailure_replies (s : State) : s.countChecksumFailure.replies = s.replies := rfl
@[simp] theorem State.countChecksumFailure_freeCount (s : State) : s.countChecksumFailure.freeCount = s.freeCount := rfl

/-! ### `publish` -/

@[simp] theorem State.publish_lastEdgeTimestampUs (s : State) (r : Reading) :
    (s.publish r).lastEdgeTimestampUs = s.lastEdgeTimestampUs := rfl
@[simp] theorem State.publish_baseValid (s : State) (r : Reading) : (s.publish r).baseValid = s.baseValid := rfl
@[simp] theorem State.publish_bitCursor (s : State) (r : Reading) : (s.publish r).bitCursor = s.bitCursor := rfl
@[simp] theorem State.publish_byteCursor (s : State) (r : Reading) : (s.publish r).byteCursor = s.byteCursor := rfl
@[simp] theorem State.publish_frameBuffer (s : State) (r : Reading) : (s.publish r).frameBuffer = s.frameBuffer := rfl
@[simp] theorem State.publish_reading (s : State) (r : Reading) : (s.publish r).reading = r := rfl
@[simp] theorem State.publish_counters (s : State) (r : Reading) : (s.publish r).counters = s.counters := rfl
@[simp] theorem State.publish_inputs (s : State) (r : Reading) : (s.publish r).inputs = s.inputs := rfl
@[simp] theorem State.publish_queries (s : State) (r : Reading) : (s.publish r).queries = s.queries := rfl
@[simp] theorem State.publish_replies (s : State) (r : Reading) : (s.publish r).replies = s.replies := rfl
@[simp] theorem State.publish_freeCount (s : State) (r : Reading) : (s.publish r).freeCount = s.freeCount := rfl

/-! ### `reply` -/

@[simp] theorem State.reply_lastEdgeTimestampUs (s : State) (r : Reply) :
    (s.reply r).lastEdgeTimestampUs = s.lastEdgeTimestampUs := rfl
@[simp] theorem State.reply_baseValid (s : State) (r : Reply) : (s.reply r).baseValid = s.baseValid := rfl
@[simp] theorem State.reply_bitCursor (s : State) (r : Reply) : (s.reply r).bitCursor = s.bitCursor := rfl
@[simp] theorem State.reply_byteCursor (s : State) (r : Reply) : (s.reply r).byteCursor = s.byteCursor := rfl
@[simp] theorem State.reply_frameBuffer (s : State) (r : Reply) : (s.reply r).frameBuffer = s.frameBuffer := rfl
@[simp] theorem State.reply_reading (s : State) (r : Reply) : (s.reply r).reading = s.reading := rfl
@[simp] theorem State.reply_counters (s : State) (r : Reply) : (s.reply r).counters = s.counters := rfl
@[simp] theorem State.reply_inputs (s : State) (r : Reply) : (s.reply r).inputs = s.inputs := rfl
@[simp] theorem State.reply_queries (s : State) (r : Reply) : (s.reply r).queries = s.queries := rfl
@[simp] theorem State.reply_replies (s : State) (r : Reply) : (s.reply r).replies = r :: s.replies := rfl
@[simp] theorem State.reply_freeCount (s : State) (r : Reply) : (s.reply r).freeCount = s.freeCount := rfl

/-! ### `setBase` -/

@[simp] theorem State.setBase_lastEdgeTimestampUs (s : State) : s.setBase.lastEdgeTimestampUs = s.lastEdgeTimestampUs := rfl
@[simp] theorem State.setBase_baseValid (s : State) : s.setBase.baseValid = true := rfl
@[simp] theorem State.setBase_bitCursor (s : State) : s.setBase.bitCursor = s.bitCursor := rfl
@[simp] theorem State.setBase_byteCursor (s : State) : s.setBase.byteCursor = s.byteCursor := rfl
@[simp] theorem State.setBase_frameBuffer (s : State) : s.setBase.frameBuffer = s.frameBuffer := rfl
@[simp] theorem State.setBase_reading (s : State) : s.setBase.reading = s.reading := rfl
@[simp] theorem State.setBase_counters (s : State) : s.setBase.counters = s.counters := rfl
@[simp] theorem State.setBase_inputs (s : State) : s.setBase.inputs = s.inputs := rfl
@[simp] theorem State.setBase_queries (s : State) : s.setBase.queries = s.queries := rfl
@[simp] theorem State.setBase_replies (s : State) : s.setBase.replies = s.replies := rfl
@[simp] theorem State.setBase_freeCount (s : State) : s.setBase.freeCount = s.freeCount := rfl

/-! ### `zeroBlock` -/

@[simp] theorem State.zeroBlock_lastEdgeTimestampUs (s : State) : s.zeroBlock.lastEdgeTimestampUs = 0 := rfl
@[simp] theorem State.zeroBlock_baseValid (s : State) : s.zeroBlock.baseValid = false := rfl
@[simp] theorem State.zeroBlock_bitCursor (s : State) : s.zeroBlock.bitCursor = 0 := rfl
@[simp] theorem State.zeroBlock_byteCursor (s : State) : s.zeroBlock.byteCursor = 0 := rfl
@[simp] theorem State.zeroBlock_frameBuffer (s : State) : s.zeroBlock.frameBuffer = [] := rfl
@[simp] theorem State.zeroBlock_reading (s : State) : s.zeroBlock.reading = Reading.zero := rfl
@[simp] theorem State.zeroBlock_counters (s : State) : s.zeroBlock.counters = Counters.zero := rfl
@[simp] theorem State.zeroBlock_inputs (s : State) : s.zeroBlock.inputs = s.inputs := rfl
@[simp] theorem State.zeroBlock_queries (s : State) : s.zeroBlock.queries = s.queries := rfl
@[simp] theorem State.zeroBlock_replies (s : State) : s.zeroBlock.replies = s.replies := rfl
@[simp] theorem State.zeroBlock_freeCount (s : State) : s.zeroBlock.freeCount = s.freeCount := rfl

/-! ### `openQuery` -/

@[simp] theorem State.openQuery_lastEdgeTimestampUs (s : State) (reader : Nat) :
    (s.openQuery reader).lastEdgeTimestampUs = s.lastEdgeTimestampUs := rfl
@[simp] theorem State.openQuery_baseValid (s : State) (reader : Nat) : (s.openQuery reader).baseValid = s.baseValid := rfl
@[simp] theorem State.openQuery_bitCursor (s : State) (reader : Nat) : (s.openQuery reader).bitCursor = s.bitCursor := rfl
@[simp] theorem State.openQuery_byteCursor (s : State) (reader : Nat) : (s.openQuery reader).byteCursor = s.byteCursor := rfl
@[simp] theorem State.openQuery_frameBuffer (s : State) (reader : Nat) :
    (s.openQuery reader).frameBuffer = s.frameBuffer := rfl
@[simp] theorem State.openQuery_reading (s : State) (reader : Nat) : (s.openQuery reader).reading = s.reading := rfl
@[simp] theorem State.openQuery_counters (s : State) (reader : Nat) : (s.openQuery reader).counters = s.counters := rfl
@[simp] theorem State.openQuery_inputs (s : State) (reader : Nat) : (s.openQuery reader).inputs = s.inputs := rfl
@[simp] theorem State.openQuery_queries (s : State) (reader : Nat) :
    (s.openQuery reader).queries = s.queries ++ [⟨reader, s.status, []⟩] := rfl
@[simp] theorem State.openQuery_replies (s : State) (reader : Nat) : (s.openQuery reader).replies = s.replies := rfl
@[simp] theorem State.openQuery_freeCount (s : State) (reader : Nat) : (s.openQuery reader).freeCount = s.freeCount := rfl

/-! ### `observe` -/

@[simp] theorem State.observe_lastEdgeTimestampUs (s : State) : s.observe.lastEdgeTimestampUs = s.lastEdgeTimestampUs := rfl
@[simp] theorem State.observe_baseValid (s : State) : s.observe.baseValid = s.baseValid := rfl
@[simp] theorem State.observe_bitCursor (s : State) : s.observe.bitCursor = s.bitCursor := rfl
@[simp] theorem State.observe_byteCursor (s : State) : s.observe.byteCursor = s.byteCursor := rfl
@[simp] theorem State.observe_frameBuffer (s : State) : s.observe.frameBuffer = s.frameBuffer := rfl
@[simp] theorem State.observe_reading (s : State) : s.observe.reading = s.reading := rfl
@[simp] theorem State.observe_counters (s : State) : s.observe.counters = s.counters := rfl
@[simp] theorem State.observe_inputs (s : State) : s.observe.inputs = s.inputs := rfl
@[simp] theorem State.observe_queries (s : State) : s.observe.queries = s.queries.map (fun w => w.see s.status) := rfl
@[simp] theorem State.observe_replies (s : State) : s.observe.replies = s.replies := rfl
@[simp] theorem State.observe_freeCount (s : State) : s.observe.freeCount = s.freeCount := rfl

/-! ### `closeQuery` -/

@[simp] theorem State.closeQuery_lastEdgeTimestampUs (s : State) (reader : Nat) :
    (s.closeQuery reader).lastEdgeTimestampUs = s.lastEdgeTimestampUs := rfl
@[simp] theorem State.closeQuery_baseValid (s : State) (reader : Nat) : (s.closeQuery reader).baseValid = s.baseValid := rfl
@[simp] theorem State.closeQuery_bitCursor (s : State) (reader : Nat) : (s.closeQuery reader).bitCursor = s.bitCursor := rfl
@[simp] theorem State.closeQuery_byteCursor (s : State) (reader : Nat) :
    (s.closeQuery reader).byteCursor = s.byteCursor := rfl
@[simp] theorem State.closeQuery_frameBuffer (s : State) (reader : Nat) :
    (s.closeQuery reader).frameBuffer = s.frameBuffer := rfl
@[simp] theorem State.closeQuery_reading (s : State) (reader : Nat) : (s.closeQuery reader).reading = s.reading := rfl
@[simp] theorem State.closeQuery_counters (s : State) (reader : Nat) : (s.closeQuery reader).counters = s.counters := rfl
@[simp] theorem State.closeQuery_inputs (s : State) (reader : Nat) : (s.closeQuery reader).inputs = s.inputs := rfl
@[simp] theorem State.closeQuery_queries (s : State) (reader : Nat) :
    (s.closeQuery reader).queries = s.queries.eraseP (fun w => w.reader = reader) := rfl
@[simp] theorem State.closeQuery_replies (s : State) (reader : Nat) : (s.closeQuery reader).replies = s.replies := rfl
@[simp] theorem State.closeQuery_freeCount (s : State) (reader : Nat) :
    (s.closeQuery reader).freeCount = s.freeCount + 4 := rfl

/-! ### `takeInput` -/

@[simp] theorem State.takeInput_lastEdgeTimestampUs (s : State) (rest : List Input) :
    (s.takeInput rest).lastEdgeTimestampUs = s.lastEdgeTimestampUs := rfl
@[simp] theorem State.takeInput_baseValid (s : State) (rest : List Input) : (s.takeInput rest).baseValid = s.baseValid := rfl
@[simp] theorem State.takeInput_bitCursor (s : State) (rest : List Input) : (s.takeInput rest).bitCursor = s.bitCursor := rfl
@[simp] theorem State.takeInput_byteCursor (s : State) (rest : List Input) :
    (s.takeInput rest).byteCursor = s.byteCursor := rfl
@[simp] theorem State.takeInput_frameBuffer (s : State) (rest : List Input) :
    (s.takeInput rest).frameBuffer = s.frameBuffer := rfl
@[simp] theorem State.takeInput_reading (s : State) (rest : List Input) : (s.takeInput rest).reading = s.reading := rfl
@[simp] theorem State.takeInput_counters (s : State) (rest : List Input) : (s.takeInput rest).counters = s.counters := rfl
@[simp] theorem State.takeInput_inputs (s : State) (rest : List Input) : (s.takeInput rest).inputs = rest := rfl
@[simp] theorem State.takeInput_queries (s : State) (rest : List Input) : (s.takeInput rest).queries = s.queries := rfl
@[simp] theorem State.takeInput_replies (s : State) (rest : List Input) : (s.takeInput rest).replies = s.replies := rfl
@[simp] theorem State.takeInput_freeCount (s : State) (rest : List Input) : (s.takeInput rest).freeCount = s.freeCount := rfl

/-! ### `deliver` -/

@[simp] theorem State.deliver_lastEdgeTimestampUs (s : State) (r : Request) :
    (s.deliver r).lastEdgeTimestampUs = s.lastEdgeTimestampUs := rfl
@[simp] theorem State.deliver_baseValid (s : State) (r : Request) : (s.deliver r).baseValid = s.baseValid := rfl
@[simp] theorem State.deliver_bitCursor (s : State) (r : Request) : (s.deliver r).bitCursor = s.bitCursor := rfl
@[simp] theorem State.deliver_byteCursor (s : State) (r : Request) : (s.deliver r).byteCursor = s.byteCursor := rfl
@[simp] theorem State.deliver_frameBuffer (s : State) (r : Request) : (s.deliver r).frameBuffer = s.frameBuffer := rfl
@[simp] theorem State.deliver_reading (s : State) (r : Request) : (s.deliver r).reading = s.reading := rfl
@[simp] theorem State.deliver_counters (s : State) (r : Request) : (s.deliver r).counters = s.counters := rfl
@[simp] theorem State.deliver_inputs (s : State) (r : Request) : (s.deliver r).inputs = .request r :: s.inputs := rfl
@[simp] theorem State.deliver_queries (s : State) (r : Request) : (s.deliver r).queries = s.queries := rfl
@[simp] theorem State.deliver_replies (s : State) (r : Request) : (s.deliver r).replies = s.replies := rfl
@[simp] theorem State.deliver_freeCount (s : State) (r : Request) : (s.deliver r).freeCount = s.freeCount := rfl

/-! ### `latchedAt` -/

@[simp] theorem State.latchedAt_lastEdgeTimestampUs (s : State) (t : Timestamp) :
    (s.latchedAt t).lastEdgeTimestampUs = t := rfl
@[simp] theorem State.latchedAt_baseValid (s : State) (t : Timestamp) : (s.latchedAt t).baseValid = true := rfl
@[simp] theorem State.latchedAt_bitCursor (s : State) (t : Timestamp) : (s.latchedAt t).bitCursor = s.bitCursor := rfl
@[simp] theorem State.latchedAt_byteCursor (s : State) (t : Timestamp) : (s.latchedAt t).byteCursor = s.byteCursor := rfl
@[simp] theorem State.latchedAt_frameBuffer (s : State) (t : Timestamp) : (s.latchedAt t).frameBuffer = s.frameBuffer := rfl
@[simp] theorem State.latchedAt_reading (s : State) (t : Timestamp) : (s.latchedAt t).reading = s.reading := rfl
@[simp] theorem State.latchedAt_counters (s : State) (t : Timestamp) : (s.latchedAt t).counters = s.counters := rfl
@[simp] theorem State.latchedAt_inputs (s : State) (t : Timestamp) : (s.latchedAt t).inputs = s.inputs := rfl
@[simp] theorem State.latchedAt_queries (s : State) (t : Timestamp) : (s.latchedAt t).queries = s.queries := rfl
@[simp] theorem State.latchedAt_replies (s : State) (t : Timestamp) : (s.latchedAt t).replies = s.replies := rfl
@[simp] theorem State.latchedAt_freeCount (s : State) (t : Timestamp) : (s.latchedAt t).freeCount = s.freeCount := rfl

/-! ### `block` -/

@[simp] theorem State.block_lastEdgeTimestampUs (s : State) : s.block.lastEdgeTimestampUs = s.lastEdgeTimestampUs := rfl
@[simp] theorem State.block_baseValid (s : State) : s.block.baseValid = s.baseValid := rfl
@[simp] theorem State.block_bitCursor (s : State) : s.block.bitCursor = s.bitCursor := rfl
@[simp] theorem State.block_byteCursor (s : State) : s.block.byteCursor = s.byteCursor := rfl
@[simp] theorem State.block_frameBuffer (s : State) : s.block.frameBuffer = s.frameBuffer := rfl
@[simp] theorem State.block_reading (s : State) : s.block.reading = s.reading := rfl
@[simp] theorem State.block_counters (s : State) : s.block.counters = s.counters := rfl
@[simp] theorem State.block_inputs (s : State) : s.block.inputs = [] := rfl
@[simp] theorem State.block_queries (s : State) : s.block.queries = [] := rfl
@[simp] theorem State.block_replies (s : State) : s.block.replies = [] := rfl
@[simp] theorem State.block_freeCount (s : State) : s.block.freeCount = 0 := rfl

end Sys2Proof.Machine
end

