-- ==== Sys2Proof/Laws/Memory.lean ====
section
/-! SUPPORT. The laws of the frame buffer: a read after a write, and the canonical form kept by every operation. -/

namespace Sys2Proof.Machine

@[simp] theorem Memory.read_nil (a : ByteIndex) : Memory.read [] a = unlistedByte := rfl

theorem Memory.read_cons (k : Nat) (b : Byte) (rest : Memory) (a : ByteIndex) :
    Memory.read ((k, b) :: rest) a = if k = a.val then b else Memory.read rest a := rfl

theorem Memory.risesFrom_cons {lo k : Nat} {b : Byte} {rest : Memory} :
    Memory.risesFrom lo ((k, b) :: rest) = true ↔
      lo ≤ k ∧ k < 50 ∧ b ≠ unlistedByte ∧ Memory.risesFrom (k + 1) rest = true := by
  simp [Memory.risesFrom, and_assoc]

/-- A rising list still rises from any lower start. -/
theorem Memory.risesFrom_mono {lo lo' : Nat} (h : lo' ≤ lo) :
    ∀ {m : Memory}, Memory.risesFrom lo m = true → Memory.risesFrom lo' m = true
  | [], _ => rfl
  | (_, _) :: _, hm => by
    rw [Memory.risesFrom_cons] at hm ⊢
    exact ⟨h.trans hm.1, hm.2⟩

/-- Below its start a rising list lists nothing. -/
theorem Memory.read_below {a : ByteIndex} :
    ∀ {lo : Nat} {m : Memory}, Memory.risesFrom lo m = true → a.val < lo → Memory.read m a = unlistedByte
  | _, [], _, _ => rfl
  | lo, (k, b) :: rest, hm, ha => by
    rw [Memory.risesFrom_cons] at hm
    rw [Memory.read_cons, if_neg (by omega)]
    exact Memory.read_below hm.2.2.2 (by omega)

theorem Memory.read_cell_append {a c : ByteIndex} {v : Byte} {rest : Memory}
    (hc : c = a → Memory.read rest c = unlistedByte) :
    Memory.read (Memory.cell a v ++ rest) c = if c = a then v else Memory.read rest c := by
  unfold Memory.cell
  by_cases hv : v = unlistedByte <;> by_cases hca : c = a
  · subst hca; simp [hv, hc rfl]
  · simp [hv, hca]
  · simp [hv, hca, Memory.read_cons]
  · simp [hv, hca, Memory.read_cons, Ne.symm (Fin.val_ne_of_ne hca)]

theorem Memory.read_write_from {a c : ByteIndex} {v : Byte} :
    ∀ {lo : Nat} {m : Memory}, Memory.risesFrom lo m = true →
      Memory.read (Memory.write m a v) c = if c = a then v else Memory.read m c
  | _, [], _ => by
    simpa [Memory.write] using Memory.read_cell_append (a := a) (c := c) (v := v) (rest := []) (fun _ => rfl)
  | _, (k, b) :: rest, hm => by
    have hm' := Memory.risesFrom_cons.mp hm
    unfold Memory.write
    split
    · rename_i hlt
      refine Memory.read_cell_append (fun hca => ?_)
      subst hca
      rw [Memory.read_cons, if_neg (by omega)]
      exact Memory.read_below hm'.2.2.2 (by omega)
    · split
      · rename_i heq
        rw [Memory.read_cell_append (fun hca => by subst hca; exact Memory.read_below hm'.2.2.2 (by omega))]
        by_cases hca : c = a
        · simp [hca]
        · have : k ≠ c.val := fun h => hca (Fin.ext (by omega))
          simp [hca, Memory.read_cons, this]
      · rename_i hlt hne
        rw [Memory.read_cons, Memory.read_cons, Memory.read_write_from hm'.2.2.2]
        by_cases hca : c = a
        · subst hca; simp [Ne.symm hne]
        · simp [hca]

/-- A read after a write to the same index gives the byte written; every other index reads as before. -/
theorem Memory.read_write {m : Memory} (hm : Memory.wf m = true) (a c : ByteIndex) (v : Byte) :
    Memory.read (Memory.write m a v) c = if c = a then v else Memory.read m c :=
  Memory.read_write_from hm

theorem Memory.risesFrom_write {a : ByteIndex} {v : Byte} :
    ∀ {lo : Nat} {m : Memory}, Memory.risesFrom lo m = true → lo ≤ a.val →
      Memory.risesFrom lo (Memory.write m a v) = true
  | lo, [], _, ha => by
    unfold Memory.write Memory.cell
    split
    · rfl
    · exact Memory.risesFrom_cons.mpr ⟨ha, a.isLt, ‹_›, rfl⟩
  | lo, (k, b) :: rest, hm, ha => by
    have hm' := Memory.risesFrom_cons.mp hm
    unfold Memory.write Memory.cell
    split
    · split
      · exact hm
      · exact Memory.risesFrom_cons.mpr
          ⟨ha, a.isLt, ‹_›, Memory.risesFrom_cons.mpr ⟨by omega, hm'.2⟩⟩
    · split
      · split
        · exact Memory.risesFrom_mono (by omega) hm'.2.2.2
        · exact Memory.risesFrom_cons.mpr
            ⟨ha, a.isLt, ‹_›, Memory.risesFrom_mono (by omega) hm'.2.2.2⟩
      · exact Memory.risesFrom_cons.mpr
          ⟨hm'.1, hm'.2.1, hm'.2.2.1, Memory.risesFrom_write hm'.2.2.2 (by omega)⟩

/-- A write keeps the canonical form; it is the only operation that writes the buffer, beside reset. -/
theorem Memory.wf_write {m : Memory} (hm : Memory.wf m = true) (a : ByteIndex) (v : Byte) :
    Memory.wf (Memory.write m a v) = true :=
  Memory.risesFrom_write hm (Nat.zero_le _)

/-- The buffer that reset leaves has the canonical form. -/
theorem Memory.wf_reset : Memory.wf State.reset.frameBuffer = true := rfl

@[simp] theorem Memory.length_bytes (m : Memory) : (Memory.bytes m).length = 50 := by
  simp [Memory.bytes]

/-- The list of the 50 bytes, index by index. -/
theorem Memory.getElem_bytes (m : Memory) (a : ByteIndex) :
    (Memory.bytes m)[a.val]? = some (Memory.read m a) := by
  simp [Memory.bytes]

end Sys2Proof.Machine
end

