-- ==== Sys2Proof/Laws/Operations.lean ====
section
/-! SUPPORT. What each shared operation can do, once: the bit write, raising a failure, the cursor step, the end of a frame, a
symbol's operation, a query, a step. Later proofs cite these and do not unfold the operations. -/

namespace Sys2Proof.Machine

/-! ### The bit write -/

theorem bitMask_getLsbD (k j : BitIndex) : (bitMask k).getLsbD j.val = decide (j = k) := by
  revert k j; decide

/-- Bit `k` becomes `v`, the others keep their values (rule R132). -/
theorem withBit_getLsbD (old : Byte) (k j : BitIndex) (v : Bool) :
    (withBit old k v).getLsbD j.val = if j = k then v else old.getLsbD j.val := by
  have hj := j.isLt
  have h0 : (0#8).getLsbD j.val = false := BitVec.getLsbD_zero
  unfold withBit
  rw [BitVec.getLsbD_or, BitVec.getLsbD_and, BitVec.getLsbD_not, bitMask_getLsbD, apply_ite (BitVec.getLsbD · j.val),
    bitMask_getLsbD, h0]
  generalize old.getLsbD j.val = b
  cases v <;> by_cases h : j = k <;> simp [h, hj]

/-- The bit write changes one bit of one byte. -/
theorem State.readByte_writeBit {s : State} (hm : Memory.wf s.frameBuffer = true) (v : Bool) (a : ByteIndex) :
    (s.writeBit v).readByte a =
      if a = s.byteCursor then withBit (s.readByte s.byteCursor) s.bitCursor v else s.readByte a :=
  Memory.read_write hm s.byteCursor a _

theorem State.writeBit_eq (s : State) (v : Bool) :
    s.writeBit v = { s with frameBuffer := (s.writeBit v).frameBuffer } := rfl

theorem State.wf_writeBit {s : State} (hm : Memory.wf s.frameBuffer = true) (v : Bool) :
    Memory.wf (s.writeBit v).frameBuffer = true :=
  Memory.wf_write hm _ _

/-! ### The meanings as the symbols' operations -/

/-- The dispatch of MEASURE performs the operation of the symbol's name (rule R116). -/
theorem performSymbol_eq_exec (y : Symbol) (s : State) : performSymbol y s = exec y.instr s := by
  cases y <;> rfl

/-- The bit symbol's operation is the bit write and then ADVANCE (rules R130, R131). -/
theorem exec_bitSymbol (v : Bool) (s : State) : exec (bitSymbol v).instr s = execAdvance (s.writeBit v) := by
  cases v <;> rfl

/-! ### What a symbol's operation does to the state -/

/-- The part of the block an assembler operation works on. -/
structure Progress (s t : State) : Prop where
  lastEdge : t.lastEdgeTimestampUs = s.lastEdgeTimestampUs
  base : t.baseValid = s.baseValid
  inputs : t.inputs = s.inputs
  queries : t.queries = s.queries
  replies : t.replies = s.replies
  freeCount : t.freeCount = s.freeCount

/-- ADVANCE goes on, in one of three ways (rules R134, R136, R137). -/
theorem execAdvance_cases (s : State) :
    (s.bitCursor ≠ 7 ∧ execAdvance s = .next { s with bitCursor := s.bitCursor + 1 }) ∨
    (s.bitCursor = 7 ∧ s.byteCursor ≠ 49 ∧
      execAdvance s = .next { s with bitCursor := 0, byteCursor := s.byteCursor + 1 }) ∨
    (s.bitCursor = 7 ∧ s.byteCursor = 49 ∧ execAdvance s = .next s.zeroCursors.countFrame.countIncomplete) := by
  by_cases h : s.bitCursor = 7
  · by_cases h' : s.byteCursor = 49
    · exact .inr (.inr ⟨h, h', by simp [execAdvance, execOverrun, raiseFailure, State.overrunWith, Config.overrunPolicy,
        State.atLastBit, State.atLastByte, h, h']⟩)
    · exact .inr (.inl ⟨h, h', by simp [execAdvance, State.atLastBit, State.atLastByte, h, h']⟩)
  · exact .inl ⟨h, by simp [execAdvance, State.atLastBit, h]⟩

/-- END_OF_FRAME goes on, in one of three ways, and `frameFailure` says which (rule R144). -/
theorem execEndOfFrame_cases (s : State) :
    (s.frameFailure = some .incompleteFrame ∧ (s.bitCursor ≠ 0 ∨ s.byteCursor = 0) ∧
      execEndOfFrame s = .next s.countFrame.countIncomplete) ∨
    (s.frameFailure = some .checksumMismatch ∧ s.bitCursor = 0 ∧ s.byteCursor ≠ 0 ∧ s.checksumOk = false ∧
      execEndOfFrame s = .next s.countFrame.countChecksumFailure) ∨
    (s.frameFailure = none ∧ s.bitCursor = 0 ∧ s.byteCursor ≠ 0 ∧ s.checksumOk = true ∧
      execEndOfFrame s = .next (s.countFrame.publish (readingOf s.frameBuffer))) := by
  by_cases hb : s.bitCursor = 0
  · by_cases hn : s.byteCursor = 0
    · refine .inl ⟨?_, .inr hn, ?_⟩ <;>
        simp [State.frameFailure, execEndOfFrame, raiseFailure, State.onByteBoundary, State.noByte, hb, hn]
    · have hc : s.countFrame.checksumOk = s.checksumOk := rfl
      have hn' : s.countFrame.noByte = false := by simp [State.noByte, hn]
      cases ho : s.checksumOk
      · refine .inr (.inl ⟨?_, hb, hn, rfl, ?_⟩) <;>
          simp [State.frameFailure, execEndOfFrame, execCrc8, raiseFailure, State.onByteBoundary, hn', hb, hc, ho] <;>
          simp [State.noByte, hn]
      · refine .inr (.inr ⟨?_, hb, hn, rfl, ?_⟩) <;>
          simp [State.frameFailure, execEndOfFrame, execCrc8, execInterpret, State.onByteBoundary, hn', hb, hc, ho] <;>
          simp [State.noByte, hn]
  · refine .inl ⟨?_, .inl hb, ?_⟩ <;>
      simp [State.frameFailure, execEndOfFrame, raiseFailure, State.onByteBoundary, hb]

/-- A symbol's operation goes on, in one of these ways: nothing (NOISE), the cursors zeroed (SYNC), one bit written and the
cursor moved or overrun, a frame judged. -/
theorem exec_symbol_cases (y : Symbol) (s : State) : ∃ t, exec y.instr s = .next t ∧
    ((y = .noise ∧ t = s) ∨ (y = .sync ∧ t = s.zeroCursors) ∨
     (∃ v, y = bitSymbol v ∧ execAdvance (s.writeBit v) = .next t) ∨
     (y = .endOfFrame ∧ execEndOfFrame s = .next t)) := by
  cases y
  · exact ⟨s, rfl, .inl ⟨rfl, rfl⟩⟩
  · obtain ⟨_, h⟩ | ⟨_, _, h⟩ | ⟨_, _, h⟩ := execAdvance_cases (s.writeBit false)
    all_goals exact ⟨_, h, .inr (.inr (.inl ⟨false, rfl, h⟩))⟩
  · obtain ⟨_, h⟩ | ⟨_, _, h⟩ | ⟨_, _, h⟩ := execAdvance_cases (s.writeBit true)
    all_goals exact ⟨_, h, .inr (.inr (.inl ⟨true, rfl, h⟩))⟩
  · exact ⟨_, rfl, .inr (.inl ⟨rfl, rfl⟩)⟩
  · obtain ⟨_, _, h⟩ | ⟨_, _, _, _, h⟩ | ⟨_, _, _, _, h⟩ := execEndOfFrame_cases s
    all_goals exact ⟨_, h, .inr (.inr (.inr ⟨rfl, h⟩))⟩

/-- A symbol's operation writes no element of the baseline and none of the model's own fields (rules R116, R133). -/
theorem exec_symbol_progress {y : Symbol} {s t : State} (h : exec y.instr s = .next t) : Progress s t := by
  obtain ⟨u, hu, hc⟩ := exec_symbol_cases y s
  obtain rfl : u = t := by rw [hu] at h; injection h
  obtain ⟨-, rfl⟩ | ⟨-, rfl⟩ | ⟨v, -, ha⟩ | ⟨-, he⟩ := hc
  · exact ⟨rfl, rfl, rfl, rfl, rfl, rfl⟩
  · exact ⟨rfl, rfl, rfl, rfl, rfl, rfl⟩
  · obtain ⟨_, h'⟩ | ⟨_, _, h'⟩ | ⟨_, _, h'⟩ := execAdvance_cases (s.writeBit v) <;>
      (rw [h'] at ha; injection ha with ha; subst ha; exact ⟨rfl, rfl, rfl, rfl, rfl, rfl⟩)
  · obtain ⟨_, _, h'⟩ | ⟨_, _, _, _, h'⟩ | ⟨_, _, _, _, h'⟩ := execEndOfFrame_cases s <;>
      (rw [h'] at he; injection he with he; subst he; exact ⟨rfl, rfl, rfl, rfl, rfl, rfl⟩)

/-- A symbol's operation keeps the buffer's canonical form. -/
theorem exec_symbol_wf {y : Symbol} {s t : State} (hm : Memory.wf s.frameBuffer = true)
    (h : exec y.instr s = .next t) : Memory.wf t.frameBuffer = true := by
  obtain ⟨u, hu, hc⟩ := exec_symbol_cases y s
  obtain rfl : u = t := by rw [hu] at h; injection h
  obtain ⟨-, rfl⟩ | ⟨-, rfl⟩ | ⟨v, -, ha⟩ | ⟨-, he⟩ := hc
  · exact hm
  · exact hm
  · have := State.wf_writeBit hm v
    obtain ⟨_, h'⟩ | ⟨_, _, h'⟩ | ⟨_, _, h'⟩ := execAdvance_cases (s.writeBit v) <;>
      (rw [h'] at ha; injection ha with ha; subst ha; exact this)
  · obtain ⟨_, _, h'⟩ | ⟨_, _, _, _, h'⟩ | ⟨_, _, _, _, h'⟩ := execEndOfFrame_cases s <;>
      (rw [h'] at he; injection he with he; subst he; exact hm)

/-! ### Queries -/

/-- SNAPSHOT goes on: it returns the current values, or ends the query in progress with what that has seen (rule R200). -/
theorem execSnapshot_cases (reader : Nat) (s : State) :
    (s.queryOf reader = none ∧ execSnapshot reader s = .next (s.reply (.snapshot reader s.status))) ∨
    (∃ w, s.queryOf reader = some w ∧
      execSnapshot reader s = .next ((s.closeQuery reader).reply (.snapshot reader (w.result s.freeCount)))) := by
  unfold execSnapshot
  cases h : s.queryOf reader
  · exact .inl ⟨rfl, rfl⟩
  · exact .inr ⟨_, rfl, rfl⟩

/-- Whatever the free choice, it is one of the values seen (rule R63). -/
theorem QueryWindow.pick_mem (w : QueryWindow) (n : Nat) : w.pick n ∈ w.seen := by
  have hl : 0 < w.seen.length := by simp [QueryWindow.seen]
  unfold QueryWindow.pick
  rw [List.getD_eq_getElem _ _ (Nat.mod_lt _ hl)]
  exact List.getElem_mem _

@[simp] theorem QueryWindow.see_reader (w : QueryWindow) (st : Status) : (w.see st).reader = w.reader := rfl

@[simp] theorem QueryWindow.seen_see (w : QueryWindow) (st : Status) : (w.see st).seen = w.seen ++ [st] := rfl

@[simp] theorem State.status_observe (s : State) : s.observe.status = s.status := rfl

@[simp] theorem State.block_observe (s : State) : s.observe.block = s.block := rfl

/-! ### The step -/

theorem observed_next {o : Host.Outcome State Fault Refusal} {t : State} (h : observed o = .next t) :
    ∃ u, o = .next u ∧ t = u.observe := by
  cases o with
  | next u => exact ⟨u, rfl, by injection h with h; exact h.symm⟩
  | fault r => exact nomatch h
  | refused r => exact nomatch h

/-- Everything a step that goes on can have done: nothing was delivered, a query began, or a request was decoded and its
operation performed. -/
theorem step_cases {s t : State} (h : step s = .next t) :
    (s.inputs = [] ∧ t = s) ∨
    (∃ reader rest, s.inputs = .beginQuery reader :: rest ∧ t = (s.takeInput rest).openQuery reader) ∨
    (∃ r rest i u, s.inputs = .request r :: rest ∧ decode s.baseValid r = .ok i ∧
      exec i (s.takeInput rest) = .next u ∧ t = u.observe) := by
  unfold step at h
  split at h
  · rename_i hi
    exact .inl ⟨hi, by injection h with h; exact h.symm⟩
  · rename_i reader rest hi
    exact .inr (.inl ⟨reader, rest, hi, by injection h with h; exact h.symm⟩)
  · rename_i r rest hi
    split at h
    · rename_i i hd
      obtain ⟨u, hu, rfl⟩ := observed_next h
      exact .inr (.inr ⟨r, rest, i, u, hi, hd, hu, rfl⟩)
    · exact nomatch h

/-- The step on a request, forwards. -/
theorem step_request {s : State} {r : Request} {rest : List Input} {i : Instr} (hi : s.inputs = .request r :: rest)
    (hd : decode s.baseValid r = .ok i) : step s = observed (exec i (s.takeInput rest)) := by
  unfold step; rw [hi]; simp only [hd]

end Sys2Proof.Machine
end

