-- ==== Sys2Proof/Laws/Encoding.lean ====
section
/-! SUPPORT. The event word and its two fields, and the decode of an event as the tree of 30_encoding.md rule R87. -/

namespace Sys2Proof

open Sys2Proof.Machine

@[simp] theorem levelOf_eventWord (l : Level) (t : Timestamp) : levelOf (eventWord l t) = l := by
  have h : (eventWord l t).getLsbD 64 = l.bit.getLsbD 0 := by
    unfold eventWord
    rw [BitVec.getLsbD_append]
    simp
  unfold levelOf
  rw [h]
  cases l <;> rfl

@[simp] theorem timestampOf_eventWord (l : Level) (t : Timestamp) : timestampOf (eventWord l t) = t := by
  unfold timestampOf eventWord
  apply BitVec.eq_of_getLsbD_eq
  intro i hi
  rw [BitVec.getLsbD_setWidth, BitVec.getLsbD_append]
  simp [hi]

/-- An event word is its level and its timestamp, and nothing else. -/
theorem eventWord_levelOf (w : EventWord) : eventWord (levelOf w) (timestampOf w) = w := by
  apply BitVec.eq_of_getLsbD_eq
  intro i hi
  unfold eventWord
  rw [BitVec.getLsbD_append]
  by_cases h : i < 64
  · simp [h, timestampOf]
  · obtain rfl : i = 64 := by omega
    unfold levelOf
    cases hw : w.getLsbD 64 <;> simp [Level.bit]

/-- The first two tests of the tree (rule R87). -/
theorem decode_edge (baseValid : Bool) (l : Level) (t : Timestamp) :
    decode baseValid (.edge (eventWord l t)) =
      .ok (if l = .low then .latch t else if baseValid = false then .prebase t else .measure t) := by
  show Except.ok (decodeEvent _ _ _) = _
  unfold decodeEvent
  rw [levelOf_eventWord, timestampOf_eventWord]
  cases l <;> cases baseValid <;> rfl

/-- A symbol's code decodes to the symbol, whatever the baseline (rule R88). -/
theorem symbolOfCode_code (y : Symbol) : symbolOfCode y.code = some y := by
  cases y <;> rfl

theorem code_symbolOfCode {c : SymbolCode} {y : Symbol} (h : symbolOfCode c = some y) : y.code = c := by
  revert c y; decide

/-- The last five tests of the tree (rule R87). -/
theorem classify_instr (i : Timestamp) :
    (classify i).instr =
      if 200 ≤ i.toNat ∧ i.toNat < 400 then .zeroBit
      else if 500 ≤ i.toNat ∧ i.toNat < 700 then .oneBit
      else if 1900 ≤ i.toNat ∧ i.toNat < 2100 then .sync
      else if 2900 ≤ i.toNat ∧ i.toNat < 3100 then .endOfFrame
      else .noise := by
  unfold classify inWindow
  simp only [Bool.and_eq_true, decide_eq_true_eq]
  split_ifs <;> rfl

end Sys2Proof
end

