-- ==== Sys2Proof/Laws/PerInstr.lean ====
section
/-! SUPPORT. One statement per instruction, about its syntax: an operation has a request exactly when something delivered to
the block can select it (30_encoding.md rules R90, R97). -/

namespace Sys2Proof.Laws.Encodable

/-- The encoder gives a request exactly for the well-formed operations, and that request is one the spec gives a meaning. -/
def Statement (i : Instr) : Prop := (encode i).isSome = i.wf ∧ ∀ r, encode i = some r → r.wf = true

theorem of_some {i : Instr} {r : Request} (h : encode i = some r) (hi : i.wf = true) (hr : r.wf = true) : Statement i :=
  ⟨by rw [h, hi]; rfl, fun _ h' => by rw [h] at h'; injection h' with h'; exact h' ▸ hr⟩

theorem of_none {i : Instr} (h : encode i = none) (hi : i.wf = false) : Statement i :=
  ⟨by rw [h, hi]; rfl, fun _ h' => nomatch h.symm.trans h'⟩

theorem latch (t : Timestamp) : Statement (.latch t) := of_some rfl rfl rfl
theorem prebase (t : Timestamp) : Statement (.prebase t) := of_some rfl rfl rfl
theorem measure (t : Timestamp) : Statement (.measure t) := of_some rfl rfl rfl
theorem zeroBit : Statement .zeroBit := of_some rfl rfl rfl
theorem oneBit : Statement .oneBit := of_some rfl rfl rfl
theorem sync : Statement .sync := of_some rfl rfl rfl
theorem endOfFrame : Statement .endOfFrame := of_some rfl rfl rfl
theorem noise : Statement .noise := of_some rfl rfl rfl
theorem advance : Statement .advance := of_none rfl rfl
theorem overrun : Statement .overrun := of_none rfl rfl
theorem crc8 : Statement .crc8 := of_none rfl rfl
theorem crcStep (crc : Byte) (d : Bool) : Statement (.crcStep crc d) := of_none rfl rfl
theorem interpret : Statement .interpret := of_none rfl rfl
theorem snapshot (reader : Nat) : Statement (.snapshot reader) := of_some rfl rfl rfl
theorem reset : Statement .reset := of_some rfl rfl rfl

end Sys2Proof.Laws.Encodable
end

