-- ==== Sys2Proof/Laws/Step.lean ====
section
/-! SUPPORT. Everything one step can do, by what was delivered: the one inversion lemma that claims about steps cite. -/

namespace Sys2Proof.Machine

/-- A request's operation that goes on is a reset outside a query, a query, a latch, a dropped event, or a symbol's operation,
asked for by an event with a baseline or by its code. -/
theorem exec_request_cases {s u : State} {r : Request} {i : Instr} (hd : decode s.baseValid r = .ok i)
    (hx : exec i s = .next u) :
    (r = .reset ∧ s.queries = [] ∧ u = s.zeroBlock) ∨
    (∃ reader, r = .query reader ∧ execSnapshot reader s = .next u) ∨
    (∃ t, r = .edge (eventWord .low t) ∧ u = s.latchedAt t) ∨
    (∃ t, r = .edge (eventWord .high t) ∧ s.baseValid = false ∧ u = s) ∨
    (∃ y : Symbol, exec y.instr s = .next u ∧
      ((∃ t, r = .edge (eventWord .high t) ∧ s.baseValid = true ∧ y = classify (t - s.lastEdgeTimestampUs)) ∨
        r = .symbol y.code)) := by
  cases r with
  | reset =>
    injection hd with hd
    subst hd
    have hx' : execReset s = .next u := hx
    unfold execReset at hx'
    split at hx'
    · rename_i hq
      injection hx' with hx'
      exact .inl ⟨rfl, by simpa using hq, hx'.symm⟩
    · exact nomatch hx'
  | query reader =>
    injection hd with hd
    subst hd
    exact .inr (.inl ⟨reader, rfl, hx⟩)
  | symbol code =>
    simp only [decode] at hd
    split at hd
    · rename_i y hy
      injection hd with hd
      subst hd
      exact .inr (.inr (.inr (.inr ⟨y, hx, .inr (by rw [code_symbolOfCode hy])⟩)))
    · exact nomatch hd
  | edge word =>
    obtain ⟨l, t, rfl⟩ : ∃ l t, word = eventWord l t := ⟨_, _, (eventWord_levelOf word).symm⟩
    rw [decode_edge] at hd
    injection hd with hd
    subst hd
    cases l with
    | low =>
      injection hx with hx
      exact .inr (.inr (.inl ⟨t, rfl, hx.symm⟩))
    | high =>
      cases hb : s.baseValid with
      | false =>
        rw [hb] at hx
        injection hx with hx
        exact .inr (.inr (.inr (.inl ⟨t, rfl, rfl, hx.symm⟩)))
      | true =>
        rw [hb] at hx
        have hx' : execMeasure t s = .next u := hx
        rw [execMeasure, if_pos hb, performSymbol_eq_exec] at hx'
        exact .inr (.inr (.inr (.inr ⟨_, hx', .inl ⟨t, rfl, rfl, rfl⟩⟩)))

/-- What a step that goes on leaves, but for the deliveries taken and what the queries in progress have seen. -/
theorem step_next_cases {s t : State} (h : step s = .next t) :
    (s.inputs = [] ∧ t = s) ∨
    (∃ reader rest, s.inputs = .beginQuery reader :: rest ∧ t = (s.takeInput rest).openQuery reader) ∨
    (∃ r rest u, s.inputs = .request r :: rest ∧ t = u.observe ∧
      ((r = .reset ∧ s.queries = [] ∧ u = (s.takeInput rest).zeroBlock) ∨
       (∃ reader, r = .query reader ∧ execSnapshot reader (s.takeInput rest) = .next u) ∨
       (∃ ts, r = .edge (eventWord .low ts) ∧ u = (s.takeInput rest).latchedAt ts) ∨
       (∃ ts, r = .edge (eventWord .high ts) ∧ s.baseValid = false ∧ u = s.takeInput rest) ∨
       (∃ y : Symbol, exec y.instr (s.takeInput rest) = .next u ∧
         ((∃ ts, r = .edge (eventWord .high ts) ∧ s.baseValid = true ∧ y = classify (ts - s.lastEdgeTimestampUs)) ∨
           r = .symbol y.code)))) := by
  obtain h' | h' | ⟨r, rest, i, u, hi, hd, hx, rfl⟩ := step_cases h
  · exact .inl h'
  · exact .inr (.inl h')
  · exact .inr (.inr ⟨r, rest, u, hi, rfl, exec_request_cases (s := s.takeInput rest) hd hx⟩)

/-- SNAPSHOT writes no element of the block (rule R200). -/
theorem execSnapshot_block {reader : Nat} {s u : State} (h : execSnapshot reader s = .next u) : u.block = s.block := by
  obtain ⟨-, h'⟩ | ⟨w, -, h'⟩ := execSnapshot_cases reader s <;>
    (rw [h'] at h; injection h with h; subst h; rfl)

end Sys2Proof.Machine
end

