-- ==== Sys2Proof/Laws/Run.lean ====
section
/-! SUPPORT. Runs: one step more, and a run after a run; the symbols of a list after those of another; and that what a symbol's
operation does depends on the assembler's part of the state alone. -/

namespace Sys2Proof.Machine

theorem run_zero (s : State) : Sys2Proof.core.run 0 s = .next s := rfl

theorem run_succ (M : Host.Core) (k : Nat) (s : M.State) :
    M.run (k + 1) s =
      match M.step s with
      | .next t => M.run k t
      | .fault r => .fault r
      | .refused r => .refused r := rfl

theorem run_step {s u : State} (h : step s = .next u) (k : Nat) :
    Sys2Proof.core.run (k + 1) s = Sys2Proof.core.run k u := by
  have h' : Sys2Proof.core.step s = .next u := h
  have hr := run_succ Sys2Proof.core k s
  rw [h'] at hr
  exact hr

/-- A run that goes on, followed by a run, is one run. -/
theorem run_add {j : Nat} (k : Nat) : ∀ {s u : State}, Sys2Proof.core.run j s = .next u →
    Sys2Proof.core.run (j + k) s = Sys2Proof.core.run k u := by
  induction j with
  | zero =>
    intro s u h
    injection h with h
    subst h
    rw [Nat.zero_add]
  | succ j ih =>
    intro s u h
    cases hs : step s with
    | next v =>
      rw [run_step hs] at h
      rw [Nat.succ_add, run_step hs, ih h]
    | fault r =>
      have h' : Sys2Proof.core.step s = .fault r := hs
      have hr := run_succ Sys2Proof.core j s
      rw [h'] at hr
      exact nomatch hr.symm.trans h
    | refused r =>
      have h' : Sys2Proof.core.step s = .refused r := hs
      have hr := run_succ Sys2Proof.core j s
      rw [h'] at hr
      exact nomatch hr.symm.trans h

theorem runSymbols_cons {y : Symbol} {ys : List Symbol} {s t : State} (h : exec y.instr s = .next t) :
    runSymbols (y :: ys) s = runSymbols ys t := by
  rw [runSymbols, h]

/-- The symbols of one list after those of another. -/
theorem runSymbols_append {ys : List Symbol} (zs : List Symbol) :
    ∀ {s t : State}, runSymbols ys s = .next t → runSymbols (ys ++ zs) s = runSymbols zs t := by
  induction ys with
  | nil =>
    intro s t h
    injection h with h
    subst h
    rfl
  | cons y ys ih =>
    intro s t h
    obtain ⟨u, hu, -⟩ := exec_symbol_cases y s
    rw [runSymbols_cons hu] at h
    rw [List.cons_append, runSymbols_cons hu, ih h]

/-- A list of symbols always goes on (60_exceptions.md rule R218). -/
theorem runSymbols_next (ys : List Symbol) : ∀ s : State, ∃ t, runSymbols ys s = .next t := by
  induction ys with
  | nil => exact fun s => ⟨s, rfl⟩
  | cons y ys ih =>
    intro s
    obtain ⟨u, hu, -⟩ := exec_symbol_cases y s
    rw [runSymbols_cons hu]
    exact ih u

/-- Another baseline, other deliveries, queries, replies and free choices under the same assembler state. -/
def State.within (s c : State) : State :=
  { s with
    lastEdgeTimestampUs := c.lastEdgeTimestampUs, baseValid := c.baseValid, inputs := c.inputs, queries := c.queries,
    replies := c.replies, freeCount := c.freeCount }

/-- What a symbol's operation does depends on the cursors, the buffer, the reading and the counters alone (rule R133). -/
theorem exec_symbol_within {y : Symbol} {s t : State} (c : State) (h : exec y.instr s = .next t) :
    exec y.instr (s.within c) = .next (t.within c) := by
  obtain ⟨u, hu, hc⟩ := exec_symbol_cases y s
  obtain rfl : u = t := by rw [hu] at h; injection h
  obtain ⟨rfl, rfl⟩ | ⟨rfl, rfl⟩ | ⟨v, rfl, ha⟩ | ⟨rfl, he⟩ := hc
  · rfl
  · rfl
  · rw [exec_bitSymbol]
    have hw : (s.within c).writeBit v = (s.writeBit v).within c := rfl
    rw [hw]
    obtain ⟨h1, h'⟩ | ⟨h1, h2, h'⟩ | ⟨h1, h2, h'⟩ := execAdvance_cases (s.writeBit v) <;>
      obtain ⟨g1, g'⟩ | ⟨g1, g2, g'⟩ | ⟨g1, g2, g'⟩ := execAdvance_cases ((s.writeBit v).within c) <;>
      first
        | exact absurd h1 g1
        | exact absurd g1 h1
        | exact absurd h2 g2
        | exact absurd g2 h2
        | (rw [g']; rw [h'] at ha; injection ha with ha; subst ha; rfl)
  · show execEndOfFrame _ = _
    have hf : (s.within c).frameFailure = s.frameFailure := rfl
    obtain ⟨h1, -, h'⟩ | ⟨h1, -, -, -, h'⟩ | ⟨h1, -, -, -, h'⟩ := execEndOfFrame_cases s <;>
      obtain ⟨g1, -, g'⟩ | ⟨g1, -, -, -, g'⟩ | ⟨g1, -, -, -, g'⟩ := execEndOfFrame_cases (s.within c) <;>
      first
        | (rw [hf, h1] at g1; cases g1; done)
        | (rw [g']; rw [h'] at he; injection he with he; subst he; rfl)

/-- What a list of symbols leaves depends on the assembler's part of the state alone. -/
theorem runSymbols_within (c : State) (ys : List Symbol) :
    ∀ {s t : State}, runSymbols ys s = .next t → runSymbols ys (s.within c) = .next (t.within c) := by
  induction ys with
  | nil =>
    intro s t h
    injection h with h
    subst h
    rfl
  | cons y ys ih =>
    intro s t h
    obtain ⟨u, hu, -⟩ := exec_symbol_cases y s
    rw [runSymbols_cons hu] at h
    rw [runSymbols_cons (exec_symbol_within c hu), ih h]

/-- A list of symbols writes no element of the baseline and none of the model's own fields. -/
theorem runSymbols_progress (ys : List Symbol) : ∀ {s t : State}, runSymbols ys s = .next t → Progress s t := by
  induction ys with
  | nil =>
    intro s t h
    injection h with h
    subst h
    exact ⟨rfl, rfl, rfl, rfl, rfl, rfl⟩
  | cons y ys ih =>
    intro s t h
    obtain ⟨u, hu, -⟩ := exec_symbol_cases y s
    rw [runSymbols_cons hu] at h
    have p := exec_symbol_progress hu
    have q := ih h
    exact ⟨q.1.trans p.1, q.2.trans p.2, q.3.trans p.3, q.4.trans p.4, q.5.trans p.5, q.6.trans p.6⟩

/-- A list of symbols keeps the buffer's canonical form. -/
theorem runSymbols_wf (ys : List Symbol) :
    ∀ {s t : State}, Memory.wf s.frameBuffer = true → runSymbols ys s = .next t → Memory.wf t.frameBuffer = true := by
  induction ys with
  | nil =>
    intro s t hm h
    injection h with h
    subst h
    exact hm
  | cons y ys ih =>
    intro s t hm h
    obtain ⟨u, hu, -⟩ := exec_symbol_cases y s
    rw [runSymbols_cons hu] at h
    exact ih (exec_symbol_wf hm hu) h

/-- The durations of scheduled pulses are the ones given. -/
@[simp] theorem map_snd_schedule (ds : List Timestamp) : ∀ T : Timestamp, (schedule T ds).map Prod.snd = ds := by
  induction ds with
  | nil => exact fun _ => rfl
  | cons d ds ih => exact fun T => congrArg (d :: ·) (ih _)

@[simp] theorem length_schedule (ds : List Timestamp) (T : Timestamp) : (schedule T ds).length = ds.length := by
  rw [← List.length_map (f := Prod.snd), map_snd_schedule]

/-- A pulse is two deliveries. -/
@[simp] theorem length_pulsesAt (ps : List (Timestamp × Timestamp)) : (pulsesAt ps).length = 2 * ps.length := by
  induction ps with
  | nil => rfl
  | cons p ps ih =>
    have h : pulsesAt (p :: ps) = lowEdge p.1 :: highEdge (p.1 + p.2) :: pulsesAt ps := rfl
    rw [h, List.length_cons, List.length_cons, List.length_cons, ih]
    omega

end Sys2Proof.Machine
end

