-- ==== Sys2Proof/Tests/Slice0.lean ====
section
/-! SUPPORT. The tests: ill-formed terms the checks refuse, words written out from the encodings of 30_encoding.md, vectors of
95_test_vectors.md (part 2) and worked examples of the rules, and a witness for the hypotheses of every obligation that has some,
at the boundaries of its clauses. -/

namespace Sys2Proof.Tests

open Sys2Proof Sys2Proof.Machine

/-! ### Helpers -/

/-- A buffer that holds these bytes from index `i` on. -/
def bufferOf (i : Nat) : List Byte → Memory
  | [] => []
  | b :: bs => Memory.cell (Fin.ofNat 50 i) b ++ bufferOf (i + 1) bs

/-- The reset state with the cursors at `(b, k)` and these bytes from index 0 on. -/
def stateAt (b : ByteIndex) (k : BitIndex) (bytes : List Byte) : State :=
  { State.reset with byteCursor := b, bitCursor := k, frameBuffer := bufferOf 0 bytes }

/-- The reset state with an edge latched at this time. -/
def latchedState (t : Timestamp) : State := State.reset.latchedAt t

/-- The reset state with these deliveries to come. -/
def stateWith (inputs : List Input) : State := { State.reset with inputs := inputs }

/-- The frame of 95_test_vectors.md program P1; its last byte is the `crc8` of the others (V-CRC-9). -/
def goodFrame : List Byte := [0xA5, 0x01, 0x02, 0x03, 0x00, 0xD7, 0xFF, 0xDD, 0x01, 0xC8, 0x01, 0x85, 0x27, 0x44]

/-- The reading of V-INT-1. -/
def goodReading : Reading := ⟨0x00D7, 0xFFDD, 0x01C8, 0x0185, 0x2744⟩

/-- The frame of P1 just before its END_OF_FRAME. -/
def goodState : State := stateAt 14 0 goodFrame

/-- The frame of P2, its checksum byte corrupted, just before its END_OF_FRAME. -/
def badState : State := stateAt 14 0 (goodFrame.take 13 ++ [0x45])

/-- A query of reader 1 in progress that has seen the status registers at zero. -/
def zeroWindow : QueryWindow := ⟨1, ⟨Reading.zero, Counters.zero⟩, []⟩

/-- The reset state during that query. -/
def queriedState : State := { State.reset with queries := [zeroWindow] }

/-! ### The checks refuse ill-formed terms -/

theorem smoke_internal_operations_cannot_be_asked_for :
    Instr.wf .advance = false ∧ Instr.wf .overrun = false ∧ Instr.wf .crc8 = false ∧
      Instr.wf (.crcStep 0 true) = false ∧ Instr.wf .interpret = false := by decide

theorem smoke_measure_needs_a_baseline : (Instr.measure 0).fitsBase false = false := by decide

theorem smoke_prebase_needs_none : (Instr.prebase 0).fitsBase true = false := by decide

theorem smoke_reserved_codes_are_ill_formed :
    (Request.symbol 5).wf = false ∧ (Request.symbol 6).wf = false ∧ (Request.symbol 7).wf = false := by decide

theorem smoke_buffer_form :
    Memory.wf [(0, 0)] = false ∧ Memory.wf [(50, 1)] = false ∧ Memory.wf [(3, 1), (3, 2)] = false ∧
      Memory.wf [(4, 1), (3, 2)] = false ∧ Memory.wf [(0, 1), (49, 0xFF)] = true := by decide

/-! ### Decoding, by words written out from 30_encoding.md rules R86 and R88 -/

/-- P3's first event, `LOW 1000` = `0_00000000000003E8`. -/
theorem decode_latch : decodeWord false 72 0x000000000000003E8 = .ok (.latch 1000) := by rfl

/-- P5's first event, `HIGH 1000` = `1_00000000000003E8`, with no baseline. -/
theorem decode_prebase : decodeWord false 72 0x100000000000003E8 = .ok (.prebase 1000) := by rfl

/-- The same word with a baseline; the level is bit 64 and no other. -/
theorem decode_measure :
    decodeWord true 72 0x100000000000003E8 = .ok (.measure 1000) ∧
      decodeWord true 72 0x0FFFFFFFFFFFFFFFF = .ok (.latch 0xFFFFFFFFFFFFFFFF) := ⟨rfl, rfl⟩

/-- The code column of rule R88. -/
theorem decode_symbols :
    decodeWord false 8 0b000 = .ok .noise ∧ decodeWord false 8 0b001 = .ok .zeroBit ∧
      decodeWord false 8 0b010 = .ok .oneBit ∧ decodeWord false 8 0b011 = .ok .sync ∧
      decodeWord false 8 0b100 = .ok .endOfFrame := ⟨rfl, rfl, rfl, rfl, rfl⟩

theorem decode_query_and_reset :
    decode false (.query 3) = .ok (.snapshot 3) ∧ decode true .reset = .ok .reset := ⟨rfl, rfl⟩

/-- The INTERNAL rows have no bits, and no request decodes to one of them. -/
theorem decode_internal_rows :
    encode .advance = none ∧ encode .overrun = none ∧ encode .crc8 = none ∧ encode (.crcStep 0 true) = none ∧
      encode .interpret = none ∧ decodeTableWord 0 0 = none := by decide

theorem decode_rejects :
    decodeWord false 8 0b101 = .error (.reservedSymbolCode 5) ∧ decodeTableWord 8 0b111 = none ∧
      decodeWord false 8 8 = .error (.wordTooWide 8 8) ∧ decodeTableWord 72 (2 ^ 65) = none := ⟨rfl, rfl, rfl, rfl⟩

/-- The words of the table run as the first operation after reset. -/
theorem test_fetch_word :
    nextOf (step (State.reset.withFetchWord 72 0x000000000000003E8)) = some (latchedState 1000) ∧
      nextOf (step (State.reset.withFetchWord 72 0x10000000000000BB8)) = some State.reset ∧
      nextOf (step (State.reset.withFetchWord 8 2)) = some (stateAt 0 1 [0x01]) := by decide

/-! ### Vectors -/

/-- V-EDGE-1, V-EDGE-4. -/
theorem test_latch :
    nextOf (exec (.latch 2000) State.reset) = some (latchedState 2000) ∧
      nextOf (exec (.latch 1500) (latchedState 2000)) = some (latchedState 1500) := by decide

/-- V-EDGE-2. -/
theorem test_prebase : nextOf (exec (.prebase 300) State.reset) = some State.reset := by decide

/-- V-EDGE-6 and V-EDGE-7, and V-EDGE-10: the clock went backwards. -/
theorem test_measure :
    nextOf (exec (.measure 3300) (latchedState 3000)) = some { latchedState 3000 with bitCursor := 1 } ∧
      nextOf (exec (.measure 3600) { latchedState 3000 with bitCursor := 1 }) =
        some { latchedState 3000 with bitCursor := 2, frameBuffer := [(0, 0x02)] } ∧
      nextOf (exec (.measure 4000) (latchedState 5000)) = some (latchedState 5000) := by decide

/-- V-EDGE-9: across a wrap of the clock. -/
theorem test_measure_wraps :
    nextOf (exec (.measure 200) (latchedState 0xFFFFFFFFFFFFFF9C)) =
      some { latchedState 0xFFFFFFFFFFFFFF9C with bitCursor := 1 } := by decide

/-- The boundaries of V-CLS. -/
theorem test_classify_boundaries :
    [199, 200, 399, 400, 499, 500, 699, 700].map classify =
        [.noise, .zeroBit, .zeroBit, .noise, .noise, .oneBit, .oneBit, .noise] ∧
      [1899, 1900, 2099, 2100, 2899, 2900, 3099, 3100].map classify =
        [.noise, .sync, .sync, .noise, .noise, .endOfFrame, .endOfFrame, .noise] ∧
      classify 0xFFFFFFFFFFFFFFFF = .noise := by decide

/-- V-ASM-6, V-ASM-15: the counter wraps. -/
theorem test_zero_bit :
    nextOf (exec .zeroBit (stateAt 0 2 [0xFF])) = some (stateAt 0 3 [0xFB]) ∧
      nextOf (exec .zeroBit { stateAt 49 7 [] with counters := ⟨0xFFFFFFFF, 7, 0⟩ }) =
        some { stateAt 0 0 [] with counters := ⟨0, 8, 0⟩ } := by decide

/-- V-ASM-1; V-ASM-13: no overrun yet. -/
theorem test_one_bit :
    nextOf (exec .oneBit State.reset) = some (stateAt 0 1 [0x01]) ∧
      nextOf (exec .oneBit (stateAt 48 7 [])) = some { stateAt 49 0 [] with frameBuffer := [(48, 0x80)] } := by decide

/-- V-ASM-14. -/
theorem test_one_bit_overruns :
    nextOf (exec .oneBit { stateAt 49 7 [] with frameBuffer := [(49, 0x7F)] }) =
      some { stateAt 0 0 [] with frameBuffer := [(49, 0xFF)], counters := ⟨1, 1, 0⟩ } := by decide

/-- V-ASM-5: 0xA5, bit 0 first. -/
theorem test_byte_order :
    nextOf (runSymbols (byteSymbols 0xA5) State.reset) = some (stateAt 1 0 [0xA5]) := by decide

/-- V-ASM-7. -/
theorem test_sync : nextOf (exec .sync (stateAt 9 5 [0x11])) = some (stateAt 0 0 [0x11]) := by decide

/-- V-ASM-10; V-ASM-11. -/
theorem test_end_of_frame_incomplete :
    nextOf (exec .endOfFrame { stateAt 7 3 [] with counters := ⟨5, 2, 1⟩ }) =
        some { stateAt 7 3 [] with counters := ⟨6, 3, 1⟩ } ∧
      nextOf (exec .endOfFrame State.reset) = some { State.reset with counters := ⟨1, 1, 0⟩ } := by decide

/-- The last event of P1, and of P2. -/
theorem test_end_of_frame_judges :
    nextOf (exec .endOfFrame goodState) = some { goodState with counters := ⟨1, 0, 0⟩, reading := goodReading } ∧
      nextOf (exec .endOfFrame badState) = some { badState with counters := ⟨1, 0, 1⟩ } := by decide +kernel

/-- V-ASM-12. -/
theorem test_noise : nextOf (exec .noise (stateAt 2 4 [0x10])) = some (stateAt 2 4 [0x10]) := by decide

/-- Rules R134 and R136: after bit 7 of byte 8, byte 9. -/
theorem test_advance : nextOf (exec .advance (stateAt 8 7 [])) = some (stateAt 9 0 []) := by decide

/-- Rule R137. -/
theorem test_overrun :
    nextOf (exec .overrun (stateAt 49 7 [])) = some { State.reset with counters := ⟨1, 1, 0⟩ } := by decide

/-- The single CRC_STEP vectors, and V-CRC-11, V-CRC-14's first flip. -/
theorem test_crc_step :
    [lfsrStep 0x00 true, lfsrStep 0x8C false, lfsrStep 0x23 false, lfsrStep 0x46 true, lfsrStep 0x01 true,
        lfsrStep 0x01 false, lfsrStep 0xFF false, lfsrStep 0xFF true] =
      [0x8C, 0x46, 0x9D, 0xAF, 0x00, 0x8C, 0xF3, 0x7F] ∧
    nextOf (exec (.crcStep 0x46 true) State.reset) = some { State.reset with replies := [.crcValue 0xAF] } := by decide

theorem test_crc8 :
    crc8 [0x31, 0x32, 0x33, 0x34, 0x35, 0x36, 0x37, 0x38, 0x39] = 0xA1 ∧ crc8 (goodFrame.take 13) = 0x44 ∧
      crc8 (0xA4 :: (goodFrame.take 13).drop 1) = 0xE3 := by decide +kernel

/-- CRC8 itself counts no frame: V-ASM-17's and V-ASM-16's, after END_OF_FRAME's own count. -/
theorem test_crc8_operation :
    nextOf (exec .crc8 (stateAt 1 0 [0x01])) = some { stateAt 1 0 [0x01] with counters := ⟨0, 0, 1⟩ } ∧
      nextOf (exec .crc8 (stateAt 1 0 [0x00])) = some (stateAt 1 0 []) := by decide

/-- V-INT-1; V-INT-4. -/
theorem test_interpret :
    nextOf (exec .interpret goodState) = some { goodState with reading := goodReading } ∧
      readingOf (bufferOf 4 [0x80, 0x00, 0x7F, 0xFF, 0xFF, 0xFF, 0x00, 0x01, 0x01, 0x00]) =
        ⟨0x8000, 0x7FFF, 0xFFFF, 0x0001, 0x0100⟩ := by decide

/-- V-INT-1's and V-INT-4's numbers. -/
theorem test_field_tenths :
    [0x00D7, 0xFFDD, 0x2744, 0x8000, 0x7FFF].map fieldTenths = [215, -35, 10052, -32768, 32767] := by decide

/-- V-SNAP-1, and V-SNAP-2's values. -/
theorem test_snapshot :
    nextOf (exec (.snapshot 1) State.reset) =
        some { State.reset with replies := [.snapshot 1 ⟨⟨0, 0, 0, 0, 0⟩, ⟨0, 0, 0⟩⟩] } ∧
      (nextOf (exec (.snapshot 1) { goodState with counters := ⟨1, 0, 0⟩, reading := goodReading })).map (·.replies) =
        some [.snapshot 1 ⟨goodReading, ⟨1, 0, 0⟩⟩] := by decide

/-- V-RST-1, V-RST-2. -/
theorem test_reset :
    nextOf (exec .reset { badState with counters := ⟨2, 0, 1⟩, reading := goodReading, baseValid := true }) =
        some State.reset ∧
      decode State.reset.baseValid (.edge (eventWord .high 214500)) = .ok (.prebase 214500) := ⟨by decide, rfl⟩

/-! ### Witnesses: the hypotheses of the obligations can be met -/

theorem witness_IntervalIsTheModularDifference :
    (0 : Timestamp).toNat ≤ (0 : Timestamp).toNat ∧
      (0 : Timestamp).toNat < (0xFFFFFFFFFFFFFFFF : Timestamp).toNat := by decide

theorem witness_MeasurePerformsItsSymbol : (latchedState 0).baseValid = true := rfl

theorem witness_MeasureWithoutBaselineDropsTheEvent : State.reset.baseValid = false := rfl

/-- One event for each leaf of the tree, at the boundaries of its condition. -/
theorem witness_EveryEventPerformsOneLeaf :
    (stateWith [lowEdge 0]).inputs = .request (.edge (eventWord .low 0)) :: [] ∧
      (stateWith [highEdge 0, lowEdge 1]).inputs = .request (.edge (eventWord .high 0)) :: [lowEdge 1] ∧
      (stateWith [highEdge 0]).baseValid = false ∧
      ∀ i ∈ ([199, 200, 399, 400, 499, 500, 699, 700, 1899, 1900, 2099, 2100, 2899, 2900, 3099, 3100] : List Timestamp),
        ({ latchedState 5 with inputs := [highEdge (5 + i)] } : State).inputs =
            .request (.edge (eventWord .high (5 + i))) :: [] ∧
          (latchedState 5).baseValid = true ∧ (5 + i) - (latchedState 5).lastEdgeTimestampUs = i :=
  ⟨rfl, rfl, rfl, fun i _ => ⟨rfl, rfl, by show 5 + i - 5 = i; bv_omega⟩⟩

theorem witness_OnlyLatchWritesTheBaseline :
    step (stateWith [lowEdge 7]) = .next (latchedState 7) ∧
      ((latchedState 7).lastEdgeTimestampUs ≠ (stateWith [lowEdge 7]).lastEdgeTimestampUs ∨
        (latchedState 7).baseValid ≠ (stateWith [lowEdge 7]).baseValid) ∧
      (∃ t, step { latchedState 7 with inputs := [.request .reset] } = .next t ∧
        t.baseValid ≠ (latchedState 7).baseValid) := ⟨rfl, by decide, _, rfl, by decide⟩

theorem witness_ZeroBitClearsItsBitThenAdvances : Memory.wf (stateAt 49 7 [0xFF]).frameBuffer = true := by decide

theorem witness_OneBitSetsItsBitThenAdvances : Memory.wf (stateAt 0 0 []).frameBuffer = true := by decide

theorem witness_AdvanceMovesTheWritePosition :
    (stateAt 49 6 []).bitCursor ≠ 7 ∧
      ((stateAt 48 7 []).bitCursor = 7 ∧ (stateAt 48 7 []).byteCursor ≠ 49) ∧
      (stateAt 49 7 []).bitCursor = 7 ∧ (stateAt 49 7 []).byteCursor = 49 := by decide

theorem witness_BitCompletingByte49IsWrittenAndOverruns :
    Memory.wf (stateAt 49 7 goodFrame).frameBuffer = true ∧ (stateAt 49 7 goodFrame).bitCursor = 7 ∧
      (stateAt 49 7 goodFrame).byteCursor = 49 := by decide

theorem witness_FrameEndingMidByteIsIncomplete :
    (stateAt 0 1 []).bitCursor ≠ 0 ∧ (stateAt 49 7 []).bitCursor ≠ 0 := by decide

theorem witness_EmptyFrameIsIncomplete : State.reset.bitCursor = 0 ∧ State.reset.byteCursor = 0 := by decide

/-- With the shortest frame, one byte, and with P2's. -/
theorem witness_MismatchCountsAndDiscards :
    ∀ s ∈ [stateAt 1 0 [0x01], badState], s.bitCursor = 0 ∧ s.byteCursor ≠ 0 ∧
      crc8 ((Memory.bytes s.frameBuffer).take (s.byteCursor.val - 1)) ≠ s.readByte (s.byteCursor - 1) := by
  decide +kernel

/-- With the shortest frame, P1's, and the longest, 49 bytes (here of zeros). -/
theorem witness_PassingFrameIsPublished :
    ∀ s ∈ [stateAt 1 0 [], goodState, stateAt 49 0 []], s.bitCursor = 0 ∧ s.byteCursor ≠ 0 ∧
      crc8 ((Memory.bytes s.frameBuffer).take (s.byteCursor.val - 1)) = s.readByte (s.byteCursor - 1) := by
  decide +kernel

theorem witness_SecondEndOfFrameRepublishes : goodState.frameFailure = none := by decide +kernel

theorem witness_EightBitsAssembleTheirByte :
    Memory.wf (stateAt 48 0 goodFrame).frameBuffer = true ∧ (stateAt 48 0 goodFrame).bitCursor = 0 ∧
      (stateAt 48 0 goodFrame).byteCursor ≠ 49 := by decide

theorem witness_FourHundredBitsCauseOneOverrun :
    Memory.wf (stateAt 0 0 goodFrame).frameBuffer = true ∧ (stateAt 0 0 goodFrame).position = 0 ∧
      (List.replicate 400 true).length = 400 := by decide +kernel

/-- A bit that changes the buffer, delivered as a symbol's code and measured from an event; and a SYNC. -/
theorem witness_OneStepChangesAtMostOneBit :
    ∀ s ∈ [stateWith [.request (.symbol 2)], { latchedState 100 with inputs := [highEdge 700] },
        stateWith [.request (.symbol 3)]],
      Memory.wf s.frameBuffer = true ∧ s.inputs.head? ≠ some (.request .reset) ∧
      ¬((0 : ByteIndex) = s.byteCursor ∧ (1 : BitIndex) = s.bitCursor) ∧
      (nextOf (step s)).map (fun t => decide (t.frameBuffer ≠ s.frameBuffer)) =
        some (decide (s.inputs.head? ≠ some (.request (.symbol 3)))) := by decide

theorem witness_CrcComparesPayloadWithTrailingByte :
    (∀ s ∈ [stateAt 1 0 [], goodState, stateAt 49 3 []], s.byteCursor ≠ 0 ∧
      crc8 ((Memory.bytes s.frameBuffer).take (s.byteCursor.val - 1)) = s.readByte (s.byteCursor - 1)) ∧
    ∀ s ∈ [stateAt 1 0 [0x01], badState], s.byteCursor ≠ 0 ∧
      crc8 ((Memory.bytes s.frameBuffer).take (s.byteCursor.val - 1)) ≠ s.readByte (s.byteCursor - 1) := by
  decide +kernel

theorem witness_CrcOfNoByteIsRefused : (stateAt 0 3 []).byteCursor = 0 := by decide

theorem witness_EverySingleBitErrorChangesTheCrc : 0 < goodFrame.length ∧ 13 < goodFrame.length := by decide

/-- The reading changes at P1's last symbol, and at its last event: the shortest interval and the longest. -/
theorem witness_OnlyAPassingFrameChangesTheReading :
    ∀ s ∈ [{ goodState with inputs := [.request (.symbol 4)] },
        { goodState.latchedAt 100 with inputs := [highEdge 3000] },
        { goodState.latchedAt 100 with inputs := [highEdge 3199] },
        { goodState with reading := goodReading, inputs := [.request .reset] }],
      ∃ t, step s = .next t ∧ t.reading ≠ s.reading := by
  have h : ∀ s ∈ [{ goodState with inputs := [.request (.symbol 4)] },
        { goodState.latchedAt 100 with inputs := [highEdge 3000] },
        { goodState.latchedAt 100 with inputs := [highEdge 3199] },
        { goodState with reading := goodReading, inputs := [.request .reset] }],
      (nextOf (step s)).any (fun t => decide (t.reading ≠ s.reading)) = true := by decide +kernel
  intro s hs
  have h' := h s hs
  cases hx : step s with
  | next t => exact ⟨t, rfl, by rw [hx] at h'; simpa [nextOf] using h'⟩
  | fault r => exact nomatch r
  | refused r => rw [hx] at h'; exact nomatch h'

theorem witness_EveryCountedFrameHasOneOutcome :
    ∃ t, step (stateWith [.request (.symbol 4)]) = .next t ∧
      (stateWith [.request (.symbol 4)]).inputs.head? ≠ some (.request .reset) := ⟨_, rfl, by decide⟩

/-- The failures equal to the frames, and the frames one below the top of the range. -/
theorem witness_FailuresNeverExceedFrames :
    ∃ s t : State, s.counters = ⟨0xFFFFFFFE, 0xFFFFFFFE, 0⟩ ∧ s.counters.accounted ∧ s.counters.belowTop ∧
      step s = .next t ∧ t.counters.framesTotal = 0xFFFFFFFF :=
  ⟨{ stateWith [.request (.symbol 4)] with counters := ⟨0xFFFFFFFE, 0xFFFFFFFE, 0⟩ }, _, rfl,
    (by decide : (0xFFFFFFFE : Count).toNat + (0 : Count).toNat ≤ (0xFFFFFFFE : Count).toNat),
    (by decide : (0xFFFFFFFE : Count).toNat + 1 < 2 ^ 32), rfl, rfl⟩

theorem witness_FailuresRecordTheirRow :
    State.reset.symbolFailure .noise = some .noiseInterval ∧
      (stateAt 0 1 []).symbolFailure .endOfFrame = some .incompleteFrame ∧
      State.reset.symbolFailure .endOfFrame = some .incompleteFrame ∧
      badState.symbolFailure .endOfFrame = some .checksumMismatch ∧
      ((stateAt 49 7 goodFrame).symbolFailure .oneBit = some .bufferOverrun ∧
        Memory.wf (stateAt 49 7 goodFrame).frameBuffer = true) ∧
      (stateAt 48 7 []).symbolFailure .zeroBit = none ∧ (stateAt 49 6 []).symbolFailure .zeroBit = none ∧
      goodState.symbolFailure .endOfFrame = none ∧ State.reset.symbolFailure .sync = none := by decide +kernel

theorem witness_RawFieldsAreTwosComplement :
    (0x7FFF : Field).toNat < 2 ^ 15 ∧ ¬(0x8000 : Field).toNat < 2 ^ 15 := by decide

/-- No query in progress, and one of another reader. -/
theorem witness_SnapshotReturnsTheStatusRegisters :
    (∀ w ∈ State.reset.queries, w.reader ≠ 1) ∧ ∀ w ∈ queriedState.queries, w.reader ≠ 2 := by decide

theorem witness_OverlappingSnapshotReturnsSeenValues : queriedState.queryOf 1 = some zeroWindow := by decide

theorem witness_QuietQueryReturnsCurrentValues :
    (∀ w ∈ (stateWith [.beginQuery 1, .request (.query 1)]).queries, w.reader ≠ 1) ∧
      (stateWith [.beginQuery 1, .request (.query 1)]).inputs = .beginQuery 1 :: .request (.query 1) :: [] := by decide

theorem witness_ReadersNeverWriteTheBlock :
    step (stateWith [lowEdge 7]) = .next (latchedState 7) ∧
      (latchedState 7).block ≠ (stateWith [lowEdge 7]).block := ⟨rfl, by decide⟩

/-- An event during a query of one reader, and a query of another. -/
theorem witness_QueriesDoNotInfluenceTheBlock :
    ∃ t, Sys2Proof.core.run (stateWith [.beginQuery 1, lowEdge 7, .request (.query 2), .request (.query 1)]).inputs.length
      (stateWith [.beginQuery 1, lowEdge 7, .request (.query 2), .request (.query 1)]) = .next t := ⟨_, rfl⟩

theorem witness_ResetZeroesTheBlock : (latchedState 7).queries = [] := rfl

theorem witness_ResetDuringAQueryIsRefused : queriedState.queries ≠ [] := by decide

theorem witness_StepPerformsTheDecodedOperation :
    (stateWith [lowEdge 7]).inputs = .request (.edge (eventWord .low 7)) :: [] ∧
      decode (stateWith [lowEdge 7]).baseValid (.edge (eventWord .low 7)) = .ok (.latch 7) := ⟨rfl, rfl⟩

theorem witness_StepWithoutARequest :
    State.reset.inputs = [] ∧ (stateWith [.beginQuery 1, lowEdge 7]).inputs = .beginQuery 1 :: [lowEdge 7] := by decide

theorem witness_ReservedSymbolCodesAreRefused :
    ∀ code ∈ ([5, 6, 7] : List SymbolCode),
      (stateWith [.request (.symbol code)]).inputs = .request (.symbol code) :: [] ∧ 5 ≤ code.toNat := by decide

theorem witness_DecodeInvertsEncode :
    ((Instr.measure 3000).wf = true ∧ (Instr.measure 3000).fitsBase true = true ∧
      (Request.edge (eventWord .high 3000)).word = some (72, 0x10000000000000BB8)) ∧
    (Instr.prebase 3000).wf = true ∧ (Instr.prebase 3000).fitsBase false = true ∧
      (Request.symbol 4).word = some (8, 4) := by decide

theorem witness_EncodeInvertsDecode :
    decode true (.symbol 4) = .ok .endOfFrame ∧ (Request.symbol 4).wf = true ∧ (Request.symbol 5).wf = false :=
  ⟨rfl, rfl, rfl⟩

theorem witness_EveryStepKeepsTheInvariant :
    ∃ t, ({ queriedState with inputs := [.request (.symbol 4)] } : State).Inv ∧
      step { queriedState with inputs := [.request (.symbol 4)] } = .next t :=
  ⟨_, ⟨by decide, by decide⟩, rfl⟩

theorem witness_BuffersThatReadTheSameAreEqual :
    Memory.wf (Memory.write [] 49 1) = true ∧ Memory.wf [(49, 1)] = true ∧
      ∀ a : ByteIndex, Memory.read (Memory.write [] 49 1) a = Memory.read [(49, 1)] a := by decide

/-- An environment that keeps to the spec: events, a symbol, a query that overlaps them, a reset after it. -/
theorem witness_NoDeliveryStopsTheDecoder :
    (stateWith [highEdge 5, .beginQuery 1, lowEdge 7, .request (.symbol 4), .request (.query 1), .request .reset]).Safe :=
  (by decide : keepsToSpec []
    [highEdge 5, .beginQuery 1, lowEdge 7, .request (.symbol 4), .request (.query 1), .request .reset] = true)

/-- Outside a query with two gaps that differ, during one across a wrap of the clock, and with no pulse. -/
theorem witness_PulsesPerformTheirSymbols :
    (stateWith (pulsesAt [(1000, 2000), (3001, 600), (90000, 300)] ++ [lowEdge 9])).inputs =
        pulsesAt [(1000, 2000), (3001, 600), (90000, 300)] ++ [lowEdge 9] ∧
      ({ queriedState with inputs := pulsesAt [(0xFFFFFFFFFFFFFF9C, 300)] } : State).inputs =
        pulsesAt [(0xFFFFFFFFFFFFFF9C, 300)] ++ [] ∧
      State.reset.inputs = pulsesAt [] ++ [] := ⟨rfl, rfl, rfl⟩

/-- The empty payload and the longest, 48 bytes. -/
theorem witness_AValidFrameIsAlwaysPublished :
    Memory.wf (stateAt 13 5 goodFrame).frameBuffer = true ∧ ([] : List Byte).length ≤ 48 ∧
      (List.replicate 48 (0xA5 : Byte)).length ≤ 48 := by decide

/-- Outside a query with one byte of payload, and during one with none. -/
theorem witness_AValidTransmissionIsAlwaysPublished :
    (Memory.wf (stateWith (frameEdges 1000 ([0x11] ++ [crc8 [0x11]]))).frameBuffer = true ∧
      ([0x11] : List Byte).length ≤ 48 ∧
      (stateWith (frameEdges 1000 ([0x11] ++ [crc8 [0x11]]))).inputs = frameEdges 1000 ([0x11] ++ [crc8 [0x11]])) ∧
    Memory.wf ({ queriedState with inputs := frameEdges 0 ([] ++ [crc8 []]) } : State).frameBuffer = true ∧
      ([] : List Byte).length ≤ 48 ∧
      ({ queriedState with inputs := frameEdges 0 ([] ++ [crc8 []]) } : State).inputs = frameEdges 0 ([] ++ [crc8 []]) :=
  ⟨⟨rfl, by decide, rfl⟩, rfl, by decide, rfl⟩

end Sys2Proof.Tests
end

section
/-! Edge capture: what LATCH does (40_edge_capture_classifier.md section 2, rule R111). -/

namespace Sys2Proof.Proofs.EdgeCapture

open Sys2Proof Sys2Proof.Machine

/-- The two writes of rule R111, the timestamp and then `base_valid`, make the latched state. -/
theorem setBase_withTimestamp (t : Timestamp) (s : State) :
    ({ s with lastEdgeTimestampUs := t } : State).setBase = s.latchedAt t := rfl

/-- LATCH always completes, in the latched state (rule R111). -/
@[simp] theorem exec_latch (t : Timestamp) (s : State) : exec (.latch t) s = .next (s.latchedAt t) :=
  congrArg Host.Outcome.next (setBase_withTimestamp t s)

/-- Settles O1: LATCH completes in the latched state, which is the old state but for the two registers of the baseline. -/
theorem latchRecordsTheTimestamp : Obligations.LatchRecordsTheTimestamp := by
  intro t s
  exact exec_latch t s

end Sys2Proof.Proofs.EdgeCapture
end

section
/-! The Frame Assembler: the bit symbols, ADVANCE, SYNC, NOISE and END_OF_FRAME (41_frame_assembler.md). -/

namespace Sys2Proof.Proofs.FrameAssembler

open Sys2Proof Sys2Proof.Machine

/-! ### The arms of `exec` -/

theorem exec_advance (s : State) : exec .advance s = execAdvance s := rfl

theorem exec_endOfFrame (s : State) : exec .endOfFrame s = execEndOfFrame s := rfl

/-- OVERRUN always completes, with the cursors zeroed and one more incomplete frame (rule R137 under DISCARD_COUNTED). -/
@[simp] theorem exec_overrun (s : State) :
    exec .overrun s = .next s.zeroCursors.countFrame.countIncomplete := rfl

@[simp] theorem exec_sync (s : State) : exec .sync s = .next s.zeroCursors := rfl

@[simp] theorem exec_noise (s : State) : exec .noise s = .next s := rfl

/-! ### ADVANCE -/

/-- Settles O11, by the three ways ADVANCE can go on: each satisfies its own clause and the premise of no other. -/
theorem advanceMovesTheWritePosition : Obligations.AdvanceMovesTheWritePosition := by
  intro s
  rw [exec_advance]
  obtain ⟨hbit, hadv⟩ | ⟨hbit, hbyte, hadv⟩ | ⟨hbit, hbyte, hadv⟩ := execAdvance_cases s
  · exact ⟨fun _ => hadv, fun h => absurd h hbit, fun h => absurd h hbit⟩
  · exact ⟨fun h => absurd hbit h, fun _ _ => hadv, fun _ h => absurd h hbyte⟩
  · exact ⟨fun h => absurd hbit h, fun _ h => absurd hbyte h, fun _ _ => ⟨_, hadv, exec_overrun s⟩⟩

/-- ADVANCE always completes and never writes the buffer, not even when it overruns (rules R134, R136, R137). -/
theorem execAdvance_keeps_frameBuffer (s : State) :
    ∃ t, execAdvance s = .next t ∧ t.frameBuffer = s.frameBuffer := by
  obtain ⟨-, hadv⟩ | ⟨-, -, hadv⟩ | ⟨-, -, hadv⟩ := execAdvance_cases s
  all_goals exact ⟨_, hadv, rfl⟩

/-! ### The bit symbols -/

/-- The bit write, bit by bit over the whole buffer: the bit at the write position becomes `v`, every other keeps its value
(rule R132). -/
theorem readByte_writeBit_getLsbD {s : State} (hm : Memory.wf s.frameBuffer = true) (v : Bool)
    (a : ByteIndex) (k : BitIndex) :
    ((s.writeBit v).readByte a).getLsbD k.val =
      if a = s.byteCursor ∧ k = s.bitCursor then v else (s.readByte a).getLsbD k.val := by
  rw [State.readByte_writeBit hm]
  by_cases ha : a = s.byteCursor
  · subst ha
    simp only [if_true, true_and, withBit_getLsbD]
  · simp [ha]

/-- ZERO_BIT and ONE_BIT at once: the buffer of the bit write, in the state that ADVANCE leaves on it (rules R130, R131). -/
theorem exec_bitSymbol_writes_then_advances {s : State} (hm : Memory.wf s.frameBuffer = true) (v : Bool) :
    ∃ (m : Memory) (t : State),
      exec (bitSymbol v).instr s = .next t ∧ exec .advance { s with frameBuffer := m } = .next t ∧ t.frameBuffer = m ∧
      ∀ (a : ByteIndex) (k : BitIndex),
        (Memory.read m a).getLsbD k.val =
          if a = s.byteCursor ∧ k = s.bitCursor then v else (Memory.read s.frameBuffer a).getLsbD k.val := by
  obtain ⟨t, hadv, hbuf⟩ := execAdvance_keeps_frameBuffer (s.writeBit v)
  refine ⟨(s.writeBit v).frameBuffer, t, ?_, ?_, hbuf, readByte_writeBit_getLsbD hm v⟩
  · rw [exec_bitSymbol, hadv]
  · rw [← State.writeBit_eq, exec_advance, hadv]

/-- Settles O9: ZERO_BIT is the operation of the bit symbol 0. -/
theorem zeroBitClearsItsBitThenAdvances : Obligations.ZeroBitClearsItsBitThenAdvances := by
  intro s hm
  exact exec_bitSymbol_writes_then_advances hm false

/-- Settles O10: ONE_BIT is the operation of the bit symbol 1. -/
theorem oneBitSetsItsBitThenAdvances : Obligations.OneBitSetsItsBitThenAdvances := by
  intro s hm
  exact exec_bitSymbol_writes_then_advances hm true

/-! ### SYNC and NOISE -/

/-- Settles O14: SYNC completes in the state with the cursors zeroed. -/
theorem syncZeroesTheCursors : Obligations.SyncZeroesTheCursors := by
  intro s
  exact exec_sync s

/-- Settles O15: NOISE completes in the state it found. -/
theorem noiseChangesNothing : Obligations.NoiseChangesNothing := by
  intro s
  exact exec_noise s

/-! ### END_OF_FRAME -/

/-- A frame that ends mid-byte or with no byte is counted, counted incomplete, and goes no further (rules R141, R142). -/
theorem exec_endOfFrame_of_incomplete {s : State} (h : s.bitCursor ≠ 0 ∨ s.byteCursor = 0) :
    exec .endOfFrame s = .next s.countFrame.countIncomplete := by
  rw [exec_endOfFrame]
  obtain ⟨-, -, hend⟩ | ⟨-, hbit, hbyte, -⟩ | ⟨-, hbit, hbyte, -⟩ := execEndOfFrame_cases s
  · exact hend
  · exact absurd h (by simp [hbit, hbyte])
  · exact absurd h (by simp [hbit, hbyte])

/-- Settles O16: mid-byte is one of the two ways a frame is incomplete. -/
theorem frameEndingMidByteIsIncomplete : Obligations.FrameEndingMidByteIsIncomplete := by
  intro s hbit
  exact exec_endOfFrame_of_incomplete (.inl hbit)

/-- Settles O20, by the three ways END_OF_FRAME can go on: incomplete, failed, published. -/
theorem endOfFrameHasOneOutcome : Obligations.EndOfFrameHasOneOutcome := by
  intro s
  rw [exec_endOfFrame]
  obtain ⟨-, -, hend⟩ | ⟨-, -, -, -, hend⟩ | ⟨-, -, -, -, hend⟩ := execEndOfFrame_cases s
  · exact ⟨_, hend, rfl, rfl, .inl ⟨rfl, rfl, rfl⟩⟩
  · exact ⟨_, hend, rfl, rfl, .inr (.inl ⟨rfl, rfl, rfl⟩)⟩
  · exact ⟨_, hend, rfl, rfl, .inr (.inr ⟨rfl, rfl, rfl⟩)⟩

end Sys2Proof.Proofs.FrameAssembler
end

section
/-! The Checksum Validator: one step of its LFSR, and how END_OF_FRAME judges a whole frame (42_crc_validator.md). -/

namespace Sys2Proof.Proofs.ChecksumValidator

open Sys2Proof Sys2Proof.Machine

/-! ### The LFSR -/

/-- The polynomial's two bits, seen after the shift, stand at 3 and 2 (rule R162). -/
theorem polynomial_getLsbD_succ (k : BitIndex) : (0x18#8).getLsbD (k.val + 1) = decide (k = 3 ∨ k = 2) := by
  revert k; decide

/-- The feedback bit goes into bit 7 and no other (rule R162). -/
theorem feedbackMask_getLsbD (k : BitIndex) : (0x80#8).getLsbD k.val = decide (k = 7) := by
  revert k; decide

/-- The step at any bit: what the shift brings there, flipped by the feedback at the polynomial's bits, or the feedback itself
at bit 7. -/
theorem lfsrStep_getLsbD (crc : Byte) (d : Bool) (k : BitIndex) :
    (lfsrStep crc d).getLsbD k.val =
      (Bool.xor (crc.getLsbD (k.val + 1)) (Bool.xor (crc.getLsbD 0) d && decide (k = 3 ∨ k = 2)) ||
        (Bool.xor (crc.getLsbD 0) d && decide (k = 7))) := by
  unfold lfsrStep
  rw [← polynomial_getLsbD_succ, ← feedbackMask_getLsbD, BitVec.getLsbD_or, BitVec.getLsbD_ushiftRight,
    Nat.add_comm 1 k.val]
  cases Bool.xor (crc.getLsbD 0) d
  · simp only [Bool.false_eq_true, if_false, Bool.false_and, Bool.xor_false, BitVec.getLsbD_zero]
  · simp only [if_true, Bool.true_and, BitVec.getLsbD_xor]

/-- Settles O25: at bit 7 the shift brings a zero and the feedback stands alone; at bits 3 and 2 the feedback flips; at every
other bit the shift is all. -/
theorem lfsrStepBitByBit : Obligations.LfsrStepBitByBit := by
  intro crc d k
  rw [lfsrStep_getLsbD]
  by_cases h7 : k = 7
  · have hshift : crc.getLsbD (k.val + 1) = false := BitVec.getLsbD_of_ge _ _ (by simp [h7])
    rw [hshift]
    simp [h7]
  · by_cases h32 : k = 3 ∨ k = 2
    · simp only [h7, h32, decide_true, decide_false, Bool.and_true, Bool.and_false, Bool.or_false, if_true, if_false]
    · simp only [h7, h32, decide_false, Bool.and_false, Bool.xor_false, Bool.or_false, if_false]

/-! ### The comparison -/

/-- With at least one byte the trailing index does not wrap below 0. -/
theorem trailingIndex_eq_sub_one {n : ByteIndex} (hn : n ≠ 0) : trailingIndex n = n - 1 :=
  Fin.ext (Fin.val_sub_one_of_ne_zero hn).symm

/-- A frame of at least one byte passes exactly when the CRC of its payload is its trailing byte (rules R160, R164). -/
theorem checksumOk_iff {s : State} (hn : s.byteCursor ≠ 0) :
    s.checksumOk = true ↔
      crc8 ((Memory.bytes s.frameBuffer).take (s.byteCursor.val - 1)) = s.readByte (s.byteCursor - 1) := by
  rw [State.checksumOk, checksumMatches, trailingIndex_eq_sub_one hn, decide_eq_true_iff]
  rfl

/-! ### The judgement of a whole frame -/

/-- A whole frame that fails its checksum is counted, counted as a failure, and goes no further (rule R166). -/
theorem exec_endOfFrame_of_mismatch {s : State} (hbit : s.bitCursor = 0) (hbyte : s.byteCursor ≠ 0)
    (hsum : s.checksumOk = false) : exec .endOfFrame s = .next s.countFrame.countChecksumFailure := by
  rw [FrameAssembler.exec_endOfFrame]
  obtain ⟨-, hinc, -⟩ | ⟨-, -, -, -, hend⟩ | ⟨-, -, -, hok, -⟩ := execEndOfFrame_cases s
  · exact absurd hinc (by simp [hbit, hbyte])
  · exact hend
  · exact absurd hok (by simp [hsum])

/-- A whole frame that passes its checksum is counted and its reading published (rule R167). -/
theorem exec_endOfFrame_of_pass {s : State} (hbit : s.bitCursor = 0) (hbyte : s.byteCursor ≠ 0)
    (hsum : s.checksumOk = true) :
    exec .endOfFrame s = .next (s.countFrame.publish (readingOf s.frameBuffer)) := by
  rw [FrameAssembler.exec_endOfFrame]
  obtain ⟨-, hinc, -⟩ | ⟨-, -, -, hbad, -⟩ | ⟨-, -, -, -, hend⟩ := execEndOfFrame_cases s
  · exact absurd hinc (by simp [hbit, hbyte])
  · exact absurd hbad (by simp [hsum])
  · exact hend

/-- Settles O18: the CRC differs from the trailing byte, so the frame's checksum fails. -/
theorem mismatchCountsAndDiscards : Obligations.MismatchCountsAndDiscards := by
  intro s hbit hbyte hcrc
  have hsum : s.checksumOk = false := Bool.eq_false_iff.mpr (mt (checksumOk_iff hbyte).mp hcrc)
  exact exec_endOfFrame_of_mismatch hbit hbyte hsum

/-- The published reading, byte by byte: each field is the two bytes from its offset on, the first one high (rule R183). -/
theorem readingOf_frameBuffer (s : State) :
    readingOf s.frameBuffer =
      { boilerTempRaw := s.readByte 4 ++ s.readByte 5
        solarTempRaw := s.readByte 6 ++ s.readByte 7
        boilerHumidityRaw := s.readByte 8 ++ s.readByte 9
        solarHumidityRaw := s.readByte 10 ++ s.readByte 11
        boilerPressureRaw := s.readByte 12 ++ s.readByte 13 } := rfl

/-- Settles O19: the CRC is the trailing byte, so the frame passes and its reading is the ten bytes at the five offsets. -/
theorem passingFrameIsPublished : Obligations.PassingFrameIsPublished := by
  intro s hbit hbyte hcrc
  have hsum : s.checksumOk = true := (checksumOk_iff hbyte).mpr hcrc
  rw [exec_endOfFrame_of_pass hbit hbyte hsum, readingOf_frameBuffer]
  rfl

end Sys2Proof.Proofs.ChecksumValidator
end

section
/-! The Frame Interpreter: what INTERPRET publishes (43_frame_interpreter.md). -/

namespace Sys2Proof.Proofs.FrameInterpreter

open Sys2Proof Sys2Proof.Machine

/-- INTERPRET always completes, with the buffer's reading published and no condition tested (rules R181, R183). -/
@[simp] theorem exec_interpret (s : State) :
    exec .interpret s = .next (s.publish (readingOf s.frameBuffer)) := rfl

/-- Settles O34: INTERPRET publishes the buffer's reading, whose fields are the ten bytes at the five offsets; publishing
writes the reading alone. -/
theorem interpretPublishesFiveFields : Obligations.InterpretPublishesFiveFields := by
  intro s
  rw [exec_interpret, ChecksumValidator.readingOf_frameBuffer, State.publish]

end Sys2Proof.Proofs.FrameInterpreter
end

section
/-! The outbound query: what SNAPSHOT returns and leaves unchanged (44_snapshot_query.md). -/

namespace Sys2Proof.Proofs.SnapshotQuery

open Sys2Proof Sys2Proof.Machine

theorem exec_snapshot (reader : Nat) (s : State) : exec (.snapshot reader) s = execSnapshot reader s := rfl

/-- A reader has no query in progress exactly when every query in progress is another's. -/
theorem queryOf_eq_none_iff {reader : Nat} {s : State} :
    s.queryOf reader = none ↔ ∀ w ∈ s.queries, w.reader ≠ reader := by
  simp only [State.queryOf, List.find?_eq_none, decide_eq_true_eq, ne_eq]

/-- SNAPSHOT always completes, leaves the block and adds one reply to its reader (rule R200). -/
theorem exec_snapshot_completes (reader : Nat) (s : State) :
    ∃ (t : State) (r : Status), exec (.snapshot reader) s = .next t ∧ t.block = s.block ∧
      t.replies = .snapshot reader r :: s.replies := by
  rw [exec_snapshot]
  obtain ⟨-, hnext⟩ | ⟨w, -, hnext⟩ := execSnapshot_cases reader s
  · exact ⟨_, s.status, hnext, execSnapshot_block hnext, rfl⟩
  · exact ⟨_, w.result s.freeCount, hnext, execSnapshot_block hnext, rfl⟩

/-- With no query of the reader in progress, SNAPSHOT replies with the status registers as they stand (rules R66, R200). -/
theorem exec_snapshot_of_queryOf_none {reader : Nat} {s : State} (hnone : s.queryOf reader = none) :
    exec (.snapshot reader) s = .next (s.reply (.snapshot reader s.status)) := by
  rw [exec_snapshot]
  obtain ⟨-, hnext⟩ | ⟨w, hsome, -⟩ := execSnapshot_cases reader s
  · exact hnext
  · exact absurd (hsome.symm.trans hnone) (Option.some_ne_none w)

/-- Settles O40: SNAPSHOT completes in either case, and when every query in progress is another reader's it only replies. -/
theorem snapshotReturnsTheStatusRegisters : Obligations.SnapshotReturnsTheStatusRegisters := by
  intro reader s
  refine ⟨exec_snapshot_completes reader s, fun hothers => ?_⟩
  exact exec_snapshot_of_queryOf_none (queryOf_eq_none_iff.mpr hothers)

end Sys2Proof.Proofs.SnapshotQuery
end

section
/-! The interval classifier: PREBASE, MEASURE, the windows, and which events write the baseline
(40_edge_capture_classifier.md section 2, 30_encoding.md section 3). -/

namespace Sys2Proof.Proofs.IntervalClassifier

open Sys2Proof Sys2Proof.Machine

/-! ### PREBASE and MEASURE -/

@[simp] theorem exec_prebase (t : Timestamp) (s : State) : exec (.prebase t) s = .next s := rfl

/-- With a baseline MEASURE is the operation of the classified symbol (rule R116). -/
theorem exec_measure_of_base {s : State} (hbase : s.baseValid = true) (t : Timestamp) :
    exec (.measure t) s = exec (classify (t - s.lastEdgeTimestampUs)).instr s := by
  have hmeasure : exec (.measure t) s = execMeasure t s := rfl
  rw [hmeasure, execMeasure, if_pos hbase, performSymbol_eq_exec, intervalOf]

/-- Settles O2: PREBASE completes in the state it found. -/
theorem prebaseDropsTheEvent : Obligations.PrebaseDropsTheEvent := by
  intro t s
  exact exec_prebase t s

/-- Settles O5: a symbol's operation always completes and is no writer of the baseline. -/
theorem measurePerformsItsSymbol : Obligations.MeasurePerformsItsSymbol := by
  intro t s hbase
  obtain ⟨u, hu, -⟩ := exec_symbol_cases (classify (t - s.lastEdgeTimestampUs)) s
  have hprogress := exec_symbol_progress hu
  exact ⟨u, (exec_measure_of_base hbase t).trans hu, hu, hprogress.lastEdge, hprogress.base.trans hbase⟩

/-- Settles O6: without a baseline MEASURE completes in the state it found. -/
theorem measureWithoutBaselineDropsTheEvent : Obligations.MeasureWithoutBaselineDropsTheEvent := by
  intro t s hbase
  have hmeasure : exec (.measure t) s = execMeasure t s := rfl
  rw [hmeasure, execMeasure, if_neg (by simp [hbase])]

/-! ### The interval and its windows -/

/-- The interval of a pulse is its duration, across a wrap of the clock too (rules R96, R113). -/
theorem intervalOf_add_self (last d : Timestamp) : intervalOf (last + d) last = d := by
  rw [intervalOf, BitVec.add_comm, BitVec.add_sub_cancel]

/-- Settles O3: subtraction modulo 2^64, split by whether it borrows. -/
theorem intervalIsTheModularDifference : Obligations.IntervalIsTheModularDifference := by
  intro t last
  have hmod : (intervalOf t last).toNat = (2 ^ 64 - last.toNat + t.toNat) % 2 ^ 64 := BitVec.toNat_sub t last
  have ht := t.isLt
  have hlast := last.isLt
  refine ⟨fun hle => ?_, fun hlt => ?_, intervalOf_add_self last⟩
  · omega
  · omega

/-- Settles O4: the windows are disjoint, so the first that contains the interval is the only one. -/
theorem classifierFollowsItsWindows : Obligations.ClassifierFollowsItsWindows := by
  intro i
  unfold classify inWindow
  simp only [Bool.and_eq_true, decide_eq_true_eq]
  split_ifs <;> simp only [true_iff, false_iff] <;> omega

/-! ### The decode tree -/

/-- A LOW edge latches, whatever the baseline; a HIGH edge is dropped without one and with one performs the symbol of its
interval (rule R87). -/
theorem exec_decoded_event (level : Level) (t : Timestamp) (s : State) :
    exec (if level = .low then .latch t else if s.baseValid = false then .prebase t else .measure t) s =
      exec (if level = .low then .latch t else if s.baseValid = false then .prebase t
        else (classify (t - s.lastEdgeTimestampUs)).instr) s := by
  cases level with
  | low => rfl
  | high =>
    cases hbase : s.baseValid with
    | false => rfl
    | true => exact exec_measure_of_base hbase t

/-- Each leaf of the tree completes. -/
theorem exec_leaf_completes (level : Level) (baseValid : Bool) (t : Timestamp) (y : Symbol) (s : State) :
    ∃ u, exec (if level = .low then .latch t else if baseValid = false then .prebase t else y.instr) s = .next u := by
  split_ifs
  · exact ⟨_, EdgeCapture.exec_latch t s⟩
  · exact ⟨_, exec_prebase t s⟩
  · obtain ⟨u, hu, -⟩ := exec_symbol_cases y s
    exact ⟨u, hu⟩

/-- Settles O7: the decoder makes the first two tests of the tree and MEASURE the others; every leaf completes. -/
theorem everyEventPerformsOneLeaf : Obligations.EveryEventPerformsOneLeaf := by
  intro s rest level t hinputs
  obtain ⟨u, hu⟩ := exec_leaf_completes level s.baseValid t (classify (t - s.lastEdgeTimestampUs)) (s.takeInput rest)
  refine ⟨u, ?_, ?_⟩
  · have hleaf := (exec_decoded_event level t (s.takeInput rest)).trans hu
    rw [step_request hinputs (decode_edge s.baseValid level t)]
    exact congrArg observed hleaf
  · rw [classify_instr] at hu
    exact hu

/-- Settles O8, by what the step was given: queries write nothing of the block, symbols keep the baseline (rule R133), and a
HIGH edge is dropped or performs a symbol; what is left is reset and the LOW edge. -/
theorem onlyLatchWritesTheBaseline : Obligations.OnlyLatchWritesTheBaseline := by
  intro s t hstep hchanged
  obtain ⟨-, rfl⟩ | ⟨_, _, -, rfl⟩ | ⟨r, rest, u, hinputs, rfl, hrequest⟩ := step_next_cases hstep
  · simp at hchanged
  · simp at hchanged
  · obtain ⟨rfl, -, -⟩ | ⟨reader, -, hquery⟩ | ⟨ts, rfl, rfl⟩ | ⟨-, -, -, rfl⟩ | ⟨y, hsymbol, -⟩ := hrequest
    · exact .inl (by rw [hinputs]; rfl)
    · have hblock := execSnapshot_block hquery
      have hlast : u.lastEdgeTimestampUs = s.lastEdgeTimestampUs := by
        simpa using congrArg State.lastEdgeTimestampUs hblock
      have hbase : u.baseValid = s.baseValid := by simpa using congrArg State.baseValid hblock
      simp [hlast, hbase] at hchanged
    · exact .inr ⟨ts, by rw [hinputs]; rfl, rfl, rfl⟩
    · simp at hchanged
    · have hprogress := exec_symbol_progress hsymbol
      simp [hprogress.lastEdge, hprogress.base] at hchanged

end Sys2Proof.Proofs.IntervalClassifier
end

section
/-! What every step keeps: the canonical form of the buffer, which makes equal buffers equal lists (20_memory.md section 1), and
that the queries in progress are up to date (20_memory.md section 7). -/

namespace Sys2Proof.Proofs.Invariant

open Sys2Proof Sys2Proof.Machine

/-! ### The canonical form -/

/-- A list reads its first byte at that byte's index. -/
theorem read_head {k : Nat} (hk : k < 50) (b : Byte) (rest : Memory) : Memory.read ((k, b) :: rest) ⟨k, hk⟩ = b := by
  rw [Memory.read_cons, if_pos rfl]

/-- Whatever reads as a canonical list does starts no later than that list's first index. -/
theorem start_le_head {lo lo' k : Nat} {b : Byte} {rest m' : Memory} (hm : Memory.risesFrom lo ((k, b) :: rest) = true)
    (hm' : Memory.risesFrom lo' m' = true) (hread : ∀ a, Memory.read ((k, b) :: rest) a = Memory.read m' a) : lo' ≤ k := by
  obtain ⟨-, hk, hb, -⟩ := Memory.risesFrom_cons.mp hm
  by_contra hlt
  have hbelow : Memory.read m' ⟨k, hk⟩ = unlistedByte := Memory.read_below hm' (Nat.lt_of_not_le hlt)
  exact hb ((read_head hk b rest).symm.trans ((hread _).trans hbelow))

/-- A canonical list that reads as an unlisted byte everywhere is empty. -/
theorem eq_nil_of_read_unlisted : ∀ {lo : Nat} {m : Memory}, Memory.risesFrom lo m = true →
    (∀ a, Memory.read m a = unlistedByte) → m = []
  | _, [], _, _ => rfl
  | _, (k, b) :: rest, hm, hread => by
    obtain ⟨-, hk, hb, -⟩ := Memory.risesFrom_cons.mp hm
    exact absurd ((read_head hk b rest).symm.trans (hread _)) hb

/-- Canonical lists with the same first index that read the same have tails that read the same. -/
theorem read_tail_eq {k : Nat} {b b' : Byte} {rest rest' : Memory} (hrest : Memory.risesFrom (k + 1) rest = true)
    (hrest' : Memory.risesFrom (k + 1) rest' = true)
    (hread : ∀ a, Memory.read ((k, b) :: rest) a = Memory.read ((k, b') :: rest') a) (a : ByteIndex) :
    Memory.read rest a = Memory.read rest' a := by
  by_cases ha : k = a.val
  · rw [Memory.read_below hrest (by omega), Memory.read_below hrest' (by omega)]
  · simpa only [Memory.read_cons, if_neg ha] using hread a

/-- Rising lists that read the same are the same, whatever each rises from. -/
theorem eq_of_read_eq : ∀ {lo lo' : Nat} {m m' : Memory}, Memory.risesFrom lo m = true → Memory.risesFrom lo' m' = true →
    (∀ a, Memory.read m a = Memory.read m' a) → m = m'
  | _, _, [], [], _, _, _ => rfl
  | _, _, _ :: _, [], hm, _, hread => eq_nil_of_read_unlisted hm hread
  | _, _, [], _ :: _, _, hm', hread => (eq_nil_of_read_unlisted hm' (fun a => (hread a).symm)).symm
  | _, _, (k, b) :: rest, (k', b') :: rest', hm, hm', hread => by
    obtain ⟨-, hk, hb, hrest⟩ := Memory.risesFrom_cons.mp hm
    obtain ⟨-, hk', hb', hrest'⟩ := Memory.risesFrom_cons.mp hm'
    have hle : k' ≤ k := start_le_head hm (Memory.risesFrom_cons.mpr ⟨le_rfl, hk', hb', hrest'⟩) hread
    have hge : k ≤ k' := start_le_head hm' (Memory.risesFrom_cons.mpr ⟨le_rfl, hk, hb, hrest⟩) (fun a => (hread a).symm)
    obtain rfl : k = k' := le_antisymm hge hle
    have hhead : b = b' := by simpa only [read_head] using hread ⟨k, hk⟩
    rw [hhead, eq_of_read_eq hrest hrest' (read_tail_eq hrest hrest' hread)]

/-- Settles O56: both lists rise from index 0. -/
theorem buffersThatReadTheSameAreEqual : Obligations.BuffersThatReadTheSameAreEqual := by
  intro m m' hm hm' hread
  exact eq_of_read_eq hm hm' hread

/-! ### The queries in progress -/

theorem queriesCurrent_iff {s : State} :
    s.queriesCurrent = true ↔ ∀ w ∈ s.queries, w.seen.getLastD w.first = s.status := by
  simp only [State.queriesCurrent, List.all_eq_true, decide_eq_true_eq]

/-- After an observation every query in progress has seen the status registers as they stand. -/
theorem queriesCurrent_observe (s : State) : s.observe.queriesCurrent = true := by
  rw [queriesCurrent_iff]
  intro w hw
  obtain ⟨v, -, rfl⟩ := List.mem_map.mp hw
  rw [QueryWindow.seen_see, State.status_observe, List.getLastD_concat]

/-- A query that begins has seen the status registers as they stand, and the others are as before. -/
theorem queriesCurrent_openQuery {s : State} (h : s.queriesCurrent = true) (reader : Nat) :
    (s.openQuery reader).queriesCurrent = true := by
  rw [queriesCurrent_iff] at h ⊢
  intro w hw
  obtain hw | hw := List.mem_append.mp hw
  · exact h w hw
  · obtain rfl := List.mem_singleton.mp hw
    rfl

/-! ### The invariant -/

/-- Settles O54: the buffer is empty and no query is in progress. -/
theorem invariantHoldsAtReset : Obligations.InvariantHoldsAtReset :=
  ⟨Memory.wf_reset, rfl⟩

/-- A step keeps the canonical form: only a symbol's operation and reset write the buffer. -/
theorem step_keeps_wf {s t : State} (hm : Memory.wf s.frameBuffer = true) (hstep : step s = .next t) :
    Memory.wf t.frameBuffer = true := by
  obtain ⟨-, rfl⟩ | ⟨_, _, -, rfl⟩ | ⟨r, rest, u, -, rfl, hrequest⟩ := step_next_cases hstep
  · exact hm
  · exact hm
  · obtain ⟨-, -, rfl⟩ | ⟨reader, -, hquery⟩ | ⟨ts, -, rfl⟩ | ⟨-, -, -, rfl⟩ | ⟨y, hsymbol, -⟩ := hrequest
    · exact Memory.wf_reset
    · have hbuffer : u.frameBuffer = s.frameBuffer := by
        simpa using congrArg State.frameBuffer (execSnapshot_block hquery)
      rw [State.observe_frameBuffer, hbuffer]
      exact hm
    · exact hm
    · exact hm
    · rw [State.observe_frameBuffer]
      exact exec_symbol_wf (s := s.takeInput rest) hm hsymbol

/-- A step keeps the queries in progress up to date: every request ends with an observation. -/
theorem step_keeps_queriesCurrent {s t : State} (hq : s.queriesCurrent = true) (hstep : step s = .next t) :
    t.queriesCurrent = true := by
  obtain ⟨-, rfl⟩ | ⟨reader, rest, -, rfl⟩ | ⟨_, _, _, u, -, -, -, rfl⟩ := step_cases hstep
  · exact hq
  · exact queriesCurrent_openQuery (s := s.takeInput rest) hq reader
  · exact queriesCurrent_observe u

/-- Settles O55: the two parts of the invariant, each kept by every step. -/
theorem everyStepKeepsTheInvariant : Obligations.EveryStepKeepsTheInvariant := by
  rintro s t ⟨hm, hq⟩ hstep
  exact ⟨step_keeps_wf hm hstep, step_keeps_queriesCurrent hq hstep⟩

end Sys2Proof.Proofs.Invariant
end

section
/-! The Frame Assembler over many symbols: bits in arrival order, the bytes they assemble, the overrun, and a frame judged twice
(41_frame_assembler.md, 20_memory.md section 2). -/

namespace Sys2Proof.Proofs.BitAssembly

open Sys2Proof Sys2Proof.Machine Sys2Proof.Proofs.FrameAssembler

/-! ### Frames that fail -/

/-- Settles O12: OVERRUN is the cursors zeroed, the frame counted and counted incomplete. -/
theorem overrunZeroesTheCursorsAndCounts : Obligations.OverrunZeroesTheCursorsAndCounts := by
  intro s
  exact exec_overrun s

/-- Settles O17: no byte is one of the two ways a frame is incomplete. -/
theorem emptyFrameIsIncomplete : Obligations.EmptyFrameIsIncomplete := by
  intro s _ hbyte
  exact exec_endOfFrame_of_incomplete (.inr hbyte)

/-! ### A frame judged twice -/

/-- A frame that raises no failure is counted and its reading published (rule R167). -/
theorem exec_endOfFrame_of_noFailure {s : State} (h : s.frameFailure = none) :
    exec .endOfFrame s = .next (s.countFrame.publish (readingOf s.frameBuffer)) := by
  rw [exec_endOfFrame]
  obtain ⟨hfail, -⟩ | ⟨hfail, -⟩ | ⟨-, -, -, -, hend⟩ := execEndOfFrame_cases s
  · exact absurd (h.symm.trans hfail) (by simp)
  · exact absurd (h.symm.trans hfail) (by simp)
  · exact hend

/-- Settles O21: a published frame leaves the cursors and the buffer, so it raises no failure the second time either. -/
theorem secondEndOfFrameRepublishes : Obligations.SecondEndOfFrameRepublishes := by
  intro s hpass
  have hagain : (s.countFrame.publish (readingOf s.frameBuffer)).frameFailure = none := hpass
  refine ⟨_, (runSymbols_cons (y := .endOfFrame) (exec_endOfFrame_of_noFailure hpass)).trans
    (runSymbols_cons (y := .endOfFrame) (exec_endOfFrame_of_noFailure hagain)), rfl, ?_⟩
  have htwo : s.counters.framesTotal + 1 + 1 = s.counters.framesTotal + 2 := by rw [BitVec.add_assoc]; rfl
  simp only [State.publish_counters, State.countFrame_counters, htwo]

/-! ### Bits in arrival order -/

/-- The address of a bit in the buffer is the write position exactly when both cursors point at it. -/
theorem address_eq_position_iff {s : State} {a : ByteIndex} {k : BitIndex} :
    8 * a.val + k.val = s.position ↔ a = s.byteCursor ∧ k = s.bitCursor := by
  rw [State.position, Fin.ext_iff, Fin.ext_iff]
  omega

/-- A write position on a byte boundary gives both cursors. -/
theorem cursors_of_position {s : State} {n : Nat} (h : s.position = 8 * n) : s.byteCursor.val = n ∧ s.bitCursor = 0 := by
  rw [State.position] at h
  refine ⟨?_, Fin.ext ?_⟩
  · omega
  · show s.bitCursor.val = 0
    omega

theorem cursors_of_position_eq_top {s : State} (h : s.position = 399) : s.bitCursor = 7 ∧ s.byteCursor = 49 := by
  rw [State.position] at h
  refine ⟨Fin.ext ?_, Fin.ext ?_⟩
  · show s.bitCursor.val = 7
    omega
  · show s.byteCursor.val = 49
    omega

theorem position_of_bitCursor_eq_zero {s : State} (h : s.bitCursor = 0) : s.position = 8 * s.byteCursor.val := by
  rw [State.position, h]
  rfl

theorem zeroCursors_of_position_eq_zero {s : State} (h : s.position = 0) : s.zeroCursors = s := by
  obtain ⟨hbyte, hbit⟩ := cursors_of_position (n := 0) h
  have hbyte' : s.byteCursor = 0 := Fin.ext hbyte
  rw [State.zeroCursors, ← hbit, ← hbyte']

/-- ADVANCE below the last position moves the write position by one and writes the cursors alone (rule R134). -/
theorem execAdvance_below_top {s : State} (h : s.position + 1 < 400) :
    ∃ t, execAdvance s = .next t ∧ t.position = s.position + 1 ∧
      t = { s with bitCursor := t.bitCursor, byteCursor := t.byteCursor } := by
  rw [State.position] at h ⊢
  obtain ⟨hbit, hadv⟩ | ⟨hbit, hbyte, hadv⟩ | ⟨hbit, hbyte, -⟩ := execAdvance_cases s
  · refine ⟨_, hadv, ?_, rfl⟩
    have hnext : (s.bitCursor + 1).val = s.bitCursor.val + 1 := Fin.val_add_one_of_lt (Fin.lt_last_iff_ne_last.mpr hbit)
    show 8 * s.byteCursor.val + (s.bitCursor + 1).val = 8 * s.byteCursor.val + s.bitCursor.val + 1
    rw [hnext, Nat.add_assoc]
  · refine ⟨_, hadv, ?_, rfl⟩
    have hnext : (s.byteCursor + 1).val = s.byteCursor.val + 1 := Fin.val_add_one_of_lt (Fin.lt_last_iff_ne_last.mpr hbyte)
    show 8 * (s.byteCursor + 1).val = 8 * s.byteCursor.val + s.bitCursor.val + 1
    rw [hnext, hbit]
    rfl
  · rw [hbit, hbyte] at h
    exact absurd h (by decide)

/-- The state after some bits: the buffer and the cursors may differ. -/
def assembled (s t : State) : State :=
  { s with bitCursor := t.bitCursor, byteCursor := t.byteCursor, frameBuffer := t.frameBuffer }

/-- A bit below the last position is written there, and the write position moves on by one (rules R130, R131, R134). -/
theorem exec_bit_below_top {s : State} (hm : Memory.wf s.frameBuffer = true) (h : s.position + 1 < 400) (v : Bool) :
    ∃ t, exec (bitSymbol v).instr s = .next t ∧ t.position = s.position + 1 ∧ t = assembled s t ∧
      ∀ (a : ByteIndex) (k : BitIndex), (t.readByte a).getLsbD k.val =
        if 8 * a.val + k.val = s.position then v else (s.readByte a).getLsbD k.val := by
  obtain ⟨t, hadv, hposition, hframe⟩ := execAdvance_below_top (s := s.writeBit v) h
  have hbuffer : t.frameBuffer = (s.writeBit v).frameBuffer := by rw [hframe]
  refine ⟨t, (exec_bitSymbol v s).trans hadv, hposition, ?_, fun a k => ?_⟩
  · rw [assembled, hbuffer]
    exact hframe
  · simp only [State.readByte, hbuffer, address_eq_position_iff]
    exact readByte_writeBit_getLsbD hm v a k

/-- Bits that do not reach the last position stand in the buffer in arrival order from the write position on; every other bit
is as before (rules R52, R134). -/
theorem runSymbols_bits (bits : List Bool) : ∀ {s : State}, Memory.wf s.frameBuffer = true →
    s.position + bits.length < 400 →
    ∃ t, runSymbols (bits.map bitSymbol) s = .next t ∧ t.position = s.position + bits.length ∧ t = assembled s t ∧
      ∀ (a : ByteIndex) (k : BitIndex), (t.readByte a).getLsbD k.val =
        if s.position ≤ 8 * a.val + k.val
        then (bits[8 * a.val + k.val - s.position]?).getD ((s.readByte a).getLsbD k.val)
        else (s.readByte a).getLsbD k.val := by
  induction bits with
  | nil => exact fun _ _ => ⟨_, rfl, rfl, rfl, fun _ _ => by simp⟩
  | cons v bits ih =>
    intro s hm hlen
    rw [List.length_cons] at hlen
    obtain ⟨u, hu, hupos, huframe, hubits⟩ := exec_bit_below_top hm (by omega) v
    obtain ⟨t, ht, htpos, htframe, htbits⟩ := ih (exec_symbol_wf hm hu) (by omega)
    refine ⟨t, (runSymbols_cons hu).trans ht, ?_, ?_, fun a k => ?_⟩
    · rw [htpos, hupos, List.length_cons]
      omega
    · rw [huframe] at htframe
      exact htframe
    · rw [htbits, hubits, hupos]
      generalize 8 * a.val + k.val = i
      obtain hlt | rfl | ⟨j, rfl⟩ : i < s.position ∨ i = s.position ∨ ∃ j, i = s.position + 1 + j := by
        obtain hlt | heq | hgt := Nat.lt_trichotomy i s.position
        · exact .inl hlt
        · exact .inr (.inl heq)
        · exact .inr (.inr (Nat.exists_eq_add_of_le hgt))
      · simp [hlt.ne, Nat.not_le.mpr hlt, Nat.not_le.mpr (Nat.lt_succ_of_lt hlt)]
      · simp
      · have hsub : s.position + 1 + j - s.position = j + 1 := by omega
        have hne : s.position + 1 + j ≠ s.position := by omega
        have hle : s.position ≤ s.position + 1 + j := by omega
        simp [hsub, hne, hle]

/-! ### Bytes -/

/-- The bits of bytes in the order of their arrival: ascending bytes, bit 0 first (rules R52, R163). -/
def arrivalBits (bytes : List Byte) : List Bool := bytes.flatMap (fun b => (List.range 8).map b.getLsbD)

/-- The symbols of bytes are those of their bits. -/
theorem flatMap_byteSymbols (bytes : List Byte) :
    bytes.flatMap byteSymbols = (arrivalBits bytes).map bitSymbol := by
  rw [arrivalBits, List.map_flatMap]
  rfl

theorem length_arrivalBits (bytes : List Byte) : (arrivalBits bytes).length = 8 * bytes.length := by
  simp [arrivalBits, List.length_flatMap, Nat.mul_comm]

/-- Bit `k` of byte `i` arrives at place `8 * i + k`. -/
theorem getElem?_arrivalBits (bytes : List Byte) : ∀ (i : Nat) (k : BitIndex),
    (arrivalBits bytes)[8 * i + k.val]? = (bytes[i]?).map (·.getLsbD k.val) := by
  induction bytes with
  | nil => exact fun _ _ => rfl
  | cons b bytes ih =>
    intro i k
    have hcons : arrivalBits (b :: bytes) = (List.range 8).map b.getLsbD ++ arrivalBits bytes := rfl
    rw [hcons]
    cases i with
    | zero =>
      rw [Nat.mul_zero, Nat.zero_add, List.getElem?_append_left (by simp)]
      simp
    | succ i =>
      have hsub : 8 * (i + 1) + k.val - 8 = 8 * i + k.val := by omega
      rw [List.getElem?_append_right (by simp; omega)]
      simpa [hsub] using ih i k

/-- Bytes that fit below byte 49 are assembled whole, one after the other from the byte under the cursor on; every other byte is
as before (20_memory.md section 2). -/
theorem runSymbols_bytes (bytes : List Byte) {s : State} (hm : Memory.wf s.frameBuffer = true) (hbit : s.bitCursor = 0)
    (hlen : s.byteCursor.val + bytes.length < 50) :
    ∃ t, runSymbols (bytes.flatMap byteSymbols) s = .next t ∧ t.byteCursor.val = s.byteCursor.val + bytes.length ∧
      t = { s with byteCursor := t.byteCursor, frameBuffer := t.frameBuffer } ∧
      ∀ a : ByteIndex, t.readByte a =
        if s.byteCursor.val ≤ a.val then (bytes[a.val - s.byteCursor.val]?).getD (s.readByte a) else s.readByte a := by
  have hposition := position_of_bitCursor_eq_zero hbit
  obtain ⟨t, ht, htpos, htframe, htbits⟩ := runSymbols_bits (arrivalBits bytes) hm
    (by rw [hposition, length_arrivalBits]; omega)
  rw [hposition, length_arrivalBits, ← Nat.mul_add] at htpos
  obtain ⟨htbyte, htbit⟩ := cursors_of_position htpos
  refine ⟨t, by rw [flatMap_byteSymbols, ht], htbyte, ?_, fun a => BitVec.eq_of_getLsbD_eq fun k hk => ?_⟩
  · rw [assembled, htbit, ← hbit] at htframe
    exact htframe
  · rw [htbits a ⟨k, hk⟩, hposition]
    by_cases hle : s.byteCursor.val ≤ a.val
    · have hsub : 8 * a.val + k - 8 * s.byteCursor.val = 8 * (a.val - s.byteCursor.val) + k := by omega
      rw [if_pos (by show _ ≤ 8 * a.val + k; omega), if_pos hle]
      show ((arrivalBits bytes)[8 * a.val + k - 8 * s.byteCursor.val]?).getD _ = _
      rw [hsub, getElem?_arrivalBits bytes _ ⟨k, hk⟩]
      cases bytes[a.val - s.byteCursor.val]? <;> rfl
    · rw [if_neg (by show ¬ _ ≤ 8 * a.val + k; omega), if_neg hle]

/-- Settles O22: one byte, assembled in the byte under the cursor. -/
theorem eightBitsAssembleTheirByte : Obligations.EightBitsAssembleTheirByte := by
  intro s b hm hbit hbyte
  have hlt : s.byteCursor.val + 1 < 50 := by
    have hne : s.byteCursor.val ≠ 49 := fun h => hbyte (Fin.ext h)
    omega
  obtain ⟨t, ht, htbyte, htframe, htbytes⟩ := runSymbols_bytes [b] hm hbit hlt
  have hnext : t.byteCursor = s.byteCursor + 1 := by
    refine Fin.ext (htbyte.trans (Fin.val_add_one_of_lt (Fin.lt_last_iff_ne_last.mpr hbyte)).symm)
  refine ⟨t, by simpa using ht, fun a => ?_, hnext ▸ htframe⟩
  rw [htbytes]
  obtain hlt | heq | hgt := Nat.lt_trichotomy a.val s.byteCursor.val
  · rw [if_neg hlt.not_ge, if_neg (Fin.ne_of_lt hlt)]
  · obtain rfl : a = s.byteCursor := Fin.ext heq
    simp
  · have hpast : [b].length ≤ a.val - s.byteCursor.val := Nat.sub_pos_of_lt hgt
    rw [if_pos hgt.le, if_neg (Fin.ne_of_gt hgt), List.getElem?_eq_none hpast]
    rfl

/-! ### What one step writes of the buffer -/

/-- A symbol's operation leaves the buffer, or it is a bit symbol's and leaves its bit write. -/
theorem exec_symbol_buffer {y : Symbol} {s u : State} (h : exec y.instr s = .next u) :
    u.frameBuffer = s.frameBuffer ∨ ∃ v, y = bitSymbol v ∧ u.frameBuffer = (s.writeBit v).frameBuffer := by
  obtain ⟨u', hu', hcases⟩ := exec_symbol_cases y s
  obtain rfl : u' = u := by rw [hu'] at h; injection h
  obtain ⟨-, rfl⟩ | ⟨-, rfl⟩ | ⟨v, hy, hadv⟩ | ⟨rfl, hend⟩ := hcases
  · exact .inl rfl
  · exact .inl rfl
  · obtain ⟨w, hw, hbuffer⟩ := execAdvance_keeps_frameBuffer (s.writeBit v)
    obtain rfl : w = u' := by rw [hadv] at hw; injection hw with hw; exact hw.symm
    exact .inr ⟨v, hy, hbuffer⟩
  · obtain ⟨w, hw, -, hframe, -⟩ := endOfFrameHasOneOutcome s
    obtain rfl : w = u' := by rw [exec_endOfFrame, hend] at hw; injection hw with hw; exact hw.symm
    exact .inl (by rw [hframe])

/-- The operation a request performs in a state is a bit symbol's, delivered as such or measured (rules R88, R116). -/
def DecodesToBit (s : State) (r : Request) : Prop :=
  ∃ i, decode s.baseValid r = .ok i ∧
    (i = .zeroBit ∨ i = .oneBit ∨ ∃ ts : Timestamp, i = .measure ts ∧
      (classify (ts - s.lastEdgeTimestampUs) = .zeroBit ∨ classify (ts - s.lastEdgeTimestampUs) = .oneBit))

theorem decodesToBit_of_measured {s : State} {ts : Timestamp} {v : Bool} (hbase : s.baseValid = true)
    (hbit : classify (ts - s.lastEdgeTimestampUs) = bitSymbol v) : DecodesToBit s (.edge (eventWord .high ts)) := by
  refine ⟨.measure ts, ?_, .inr (.inr ⟨ts, rfl, ?_⟩)⟩
  · rw [decode_edge, hbase]
    rfl
  · rw [hbit]
    cases v
    · exact .inl rfl
    · exact .inr rfl

theorem decodesToBit_of_code (s : State) (v : Bool) : DecodesToBit s (.symbol (bitSymbol v).code) := by
  cases v
  · exact ⟨.zeroBit, rfl, .inl rfl⟩
  · exact ⟨.oneBit, rfl, .inr (.inl rfl)⟩

/-- But for reset, a step leaves the buffer, or it is given a bit and leaves its bit write. -/
theorem step_buffer {s t : State} (hstep : step s = .next t) (hreset : s.inputs.head? ≠ some (.request .reset)) :
    t.frameBuffer = s.frameBuffer ∨
      ∃ v r, s.inputs.head? = some (.request r) ∧ DecodesToBit s r ∧ t.frameBuffer = (s.writeBit v).frameBuffer := by
  obtain ⟨-, rfl⟩ | ⟨_, _, -, rfl⟩ | ⟨r, rest, u, hinputs, rfl, hrequest⟩ := step_next_cases hstep
  · exact .inl rfl
  · exact .inl rfl
  · have hhead : s.inputs.head? = some (.request r) := by rw [hinputs]; rfl
    obtain ⟨rfl, -, -⟩ | ⟨reader, -, hquery⟩ | ⟨ts, -, rfl⟩ | ⟨-, -, -, rfl⟩ | ⟨y, hsymbol, hfrom⟩ := hrequest
    · exact absurd hhead hreset
    · exact .inl (by simpa using congrArg State.frameBuffer (execSnapshot_block hquery))
    · exact .inl rfl
    · exact .inl rfl
    · obtain hsame | ⟨v, rfl, hwrite⟩ := exec_symbol_buffer hsymbol
      · exact .inl hsame
      · refine .inr ⟨v, r, hhead, ?_, hwrite⟩
        obtain ⟨ts, rfl, hbase, hclass⟩ | rfl := hfrom
        · exact decodesToBit_of_measured hbase hclass.symm
        · exact decodesToBit_of_code s v

/-- Settles O24: the one write of the buffer is the bit write at the cursors. -/
theorem oneStepChangesAtMostOneBit : Obligations.OneStepChangesAtMostOneBit := by
  intro s t hm hstep hreset
  obtain hsame | ⟨v, r, hhead, ⟨i, hdecode, hi⟩, hwrite⟩ := step_buffer hstep hreset
  · exact ⟨fun a k _ => by rw [State.readByte, hsame, State.readByte], fun hne => absurd hsame hne⟩
  · refine ⟨fun a k hother => ?_, fun _ => ⟨r, i, hhead, hdecode, hi⟩⟩
    have hread : t.readByte a = (s.writeBit v).readByte a := by rw [State.readByte, hwrite, State.readByte]
    rw [hread, readByte_writeBit_getLsbD hm, if_neg hother]

/-! ### The overrun -/

/-- Settles O13: the bit is written, and ADVANCE, at the last position, overruns. -/
theorem bitCompletingByte49IsWrittenAndOverruns : Obligations.BitCompletingByte49IsWrittenAndOverruns := by
  intro s v hm hbit hbyte
  obtain ⟨hne, -⟩ | ⟨-, hne, -⟩ | ⟨-, -, hadv⟩ := execAdvance_cases (s.writeBit v)
  · exact absurd hbit hne
  · exact absurd hbyte hne
  · refine ⟨_, (exec_bitSymbol v s).trans hadv, fun a k => ?_, rfl⟩
    rw [← hbyte, ← hbit]
    exact readByte_writeBit_getLsbD hm v a k

/-- Settles O23: all bits but the last stand in arrival order below the last position, and the last completes byte 49. -/
theorem fourHundredBitsCauseOneOverrun : Obligations.FourHundredBitsCauseOneOverrun := by
  intro s bits hm hstart hlength
  obtain ⟨bits, v, rfl⟩ : ∃ bs v, bits = bs ++ [v] :=
    ⟨bits.dropLast, bits.getLast (by rintro rfl; simp at hlength), (List.dropLast_append_getLast _).symm⟩
  have hlen : bits.length = 399 := by simpa using hlength
  obtain ⟨u, hu, hupos, huframe, hubits⟩ := runSymbols_bits bits hm (by omega)
  have htop : u.position = 399 := by rw [hupos, hstart, hlen]
  obtain ⟨hbit, hbyte⟩ := cursors_of_position_eq_top htop
  obtain ⟨t, ht, htbits, htframe⟩ :=
    bitCompletingByte49IsWrittenAndOverruns u v (runSymbols_wf _ hm hu) hbit hbyte
  refine ⟨t, ?_, fun a k => ?_, ?_⟩
  · rw [List.map_append, runSymbols_append _ hu]
    exact runSymbols_cons ht
  · rw [htbits, hubits, hstart]
    have haddress : a = 49 ∧ k = 7 ↔ 8 * a.val + k.val = 399 := by
      rw [← hbit, ← hbyte, ← htop, address_eq_position_iff]
    simp only [haddress]
    generalize hi : 8 * a.val + k.val = i
    have hle : i ≤ 399 := by omega
    obtain rfl | hlt := hle.eq_or_lt
    · simp [hlen]
    · simp [List.getElem?_append_left (hlen ▸ hlt), List.getElem?_eq_getElem (hlen ▸ hlt), hlt.ne]
  · rw [huframe] at htframe
    rw [← zeroCursors_of_position_eq_zero hstart]
    exact htframe

end Sys2Proof.Proofs.BitAssembly
end

section
/-! The CRC as an algebra: the LFSR is linear and injective, from which the residue, leading zeros, the byte-at-a-time form and
single-bit errors follow (42_crc_validator.md sections 2 and 4). -/

namespace Sys2Proof.Proofs.CrcAlgebra

open Sys2Proof Sys2Proof.Machine Sys2Proof.Proofs.ChecksumValidator

/-! ### The operations -/

/-- Settles O26: CRC_STEP completes with one reply and nothing else. -/
theorem crcStepReturnsTheStep : Obligations.CrcStepReturnsTheStep := by
  intro crc d s
  rfl

theorem exec_crc8 (s : State) : exec .crc8 s = execCrc8 s := rfl

theorem noByte_eq_false {s : State} (h : s.byteCursor ≠ 0) : s.noByte = false := by
  rw [State.noByte, decide_eq_false h]

/-- CRC8 of a frame that passes is INTERPRET (rule R167). -/
theorem exec_crc8_of_pass {s : State} (hbyte : s.byteCursor ≠ 0) (hsum : s.checksumOk = true) :
    exec .crc8 s = exec .interpret s := by
  rw [exec_crc8, execCrc8, noByte_eq_false hbyte, hsum]
  rfl

/-- CRC8 of a frame that fails counts the failure (rule R166). -/
theorem exec_crc8_of_mismatch {s : State} (hbyte : s.byteCursor ≠ 0) (hsum : s.checksumOk = false) :
    exec .crc8 s = .next s.countChecksumFailure := by
  rw [exec_crc8, execCrc8, noByte_eq_false hbyte, hsum]
  rfl

/-- Settles O27: the comparison is `checksumOk`, which says whether CRC8 interprets the frame or fails it. -/
theorem crcComparesPayloadWithTrailingByte : Obligations.CrcComparesPayloadWithTrailingByte := by
  intro s hbyte
  rw [ne_eq, ← checksumOk_iff hbyte, Bool.not_eq_true]
  refine ⟨fun hpass => ?_, fun hfail => exec_crc8_of_mismatch hbyte hfail⟩
  have hinterpret := FrameInterpreter.exec_interpret s
  exact ⟨_, (exec_crc8_of_pass hbyte hpass).trans hinterpret, hinterpret⟩

/-- Settles O28: the test for no byte comes first. -/
theorem crcOfNoByteIsRefused : Obligations.CrcOfNoByteIsRefused := by
  intro s hbyte
  have hno : s.noByte = true := by rw [State.noByte, decide_eq_true hbyte]
  rw [exec_crc8, execCrc8, if_pos hno]

/-! ### Lists of bytes -/

theorem crc8From_cons (init b : Byte) (p : List Byte) : crc8From init (b :: p) = crc8From (lfsrByte init b) p := rfl

theorem crc8From_append (init : Byte) (p q : List Byte) : crc8From init (p ++ q) = crc8From (crc8From init p) q :=
  List.foldl_append

theorem crc8_eq (p : List Byte) : crc8 p = crc8From 0#8 p := rfl

/-- A byte is consumed as its eight bits, bit 0 first. -/
theorem lfsrByte_eq_foldl (c b : Byte) : lfsrByte c b = ((List.range 8).map b.getLsbD).foldl lfsrStep c := rfl

/-- Settles O29: the fold over the bytes is the fold over all their bits. -/
theorem crcConsumesBitsInArrivalOrder : Obligations.CrcConsumesBitsInArrivalOrder := by
  intro bytes
  simp only [List.foldl_flatMap, ← lfsrByte_eq_foldl]
  rfl

/-! ### Linearity -/

/-- The step is linear over exclusive-or, in the running CRC and the data bit together. -/
theorem lfsrStep_xor (c x : Byte) (d e : Bool) :
    lfsrStep (c ^^^ x) (Bool.xor d e) = lfsrStep c d ^^^ lfsrStep x e := by
  refine BitVec.eq_of_getLsbD_eq fun i hi => ?_
  rw [BitVec.getLsbD_xor]
  rw [lfsrStepBitByBit _ _ ⟨i, hi⟩, lfsrStepBitByBit _ _ ⟨i, hi⟩, lfsrStepBitByBit _ _ ⟨i, hi⟩]
  simp only [BitVec.getLsbD_xor]
  split_ifs
  · simp only [Bool.xor_assoc, Bool.xor_left_comm]
  · simp only [Bool.xor_assoc, Bool.xor_left_comm]
  · rfl

/-- So consuming a byte is linear. -/
theorem lfsrByte_xor (c x b y : Byte) : lfsrByte (c ^^^ x) (b ^^^ y) = lfsrByte c b ^^^ lfsrByte x y := by
  simp only [lfsrByte, List.foldl_cons, List.foldl_nil, BitVec.getLsbD_xor, lfsrStep_xor]

/-- A data bit equal to bit 0 gives no feedback: the step is the shift. -/
theorem lfsrStep_bit0 (c : Byte) : lfsrStep c (c.getLsbD 0) = c >>> 1 := by
  simp [lfsrStep]

/-- A byte consumed from itself leaves zero: every step is the shift. -/
theorem lfsrByte_self (b : Byte) : lfsrByte b b = 0#8 := by
  have hshift (j : Nat) : lfsrStep (b >>> j) (b.getLsbD j) = b >>> (j + 1) := by
    have hbit : (b >>> j).getLsbD 0 = b.getLsbD j := by simp
    rw [← hbit, lfsrStep_bit0, ← BitVec.shiftRight_add]
  have hzero : b = b >>> 0 := by simp
  calc lfsrByte b b
      = [0, 1, 2, 3, 4, 5, 6, 7].foldl (fun c k => lfsrStep c (b.getLsbD k)) (b >>> 0) := by rw [← hzero]; rfl
    _ = b >>> 8 := by simp only [List.foldl_cons, List.foldl_nil, hshift]
    _ = 0#8 := BitVec.ushiftRight_eq_zero le_rfl

theorem lfsrByte_zero : lfsrByte 0#8 0#8 = 0#8 := lfsrByte_self 0#8

/-- Consuming `b` from `c` is consuming 0 from `c ^ b`. -/
theorem lfsrByte_eq_of_zero (c b : Byte) : lfsrByte c b = lfsrByte (c ^^^ b) 0#8 := by
  have hlinear := lfsrByte_xor c b b b
  rw [BitVec.xor_self, lfsrByte_self, BitVec.xor_zero] at hlinear
  exact hlinear.symm

/-- And it is consuming `c ^ b` from 0. -/
theorem lfsrByte_eq_from_zero (c b : Byte) : lfsrByte c b = lfsrByte 0#8 (c ^^^ b) := by
  rw [lfsrByte_eq_of_zero c b, lfsrByte_eq_of_zero 0#8, BitVec.zero_xor]

/-- Settles O30: a byte equal to the running CRC takes it to zero, the start value. -/
theorem crcResidueIsZero : Obligations.CrcResidueIsZero := by
  intro p q
  simp only [crc8_eq, crc8From_append, crc8From_cons, lfsrByte_self]
  exact ⟨rfl, trivial⟩

/-- Zero bytes keep the running CRC at zero. -/
theorem crc8From_zero_replicate (n : Nat) : crc8From 0#8 (List.replicate n 0#8) = 0#8 := by
  induction n with
  | zero => rfl
  | succ n ih => rw [List.replicate_succ, crc8From_cons, lfsrByte_zero, ih]

/-- Settles O31: zero bytes leave the start value as it was. -/
theorem leadingZeroBytesDoNotChangeTheCrc : Obligations.LeadingZeroBytesDoNotChangeTheCrc := by
  intro n p
  rw [crc8_eq, crc8_eq, crc8_eq, crc8From_append, crc8From_zero_replicate]
  exact ⟨rfl, rfl⟩

/-- Settles O32: the entry for `init ^ b` is the value after `b` consumed from `init`. -/
theorem crcByteAtATimeTwin : Obligations.CrcByteAtATimeTwin := by
  intro init b p
  have hentry : crc8 [init ^^^ b] = lfsrByte 0#8 (init ^^^ b) := rfl
  rw [crc8From_cons, hentry, ← lfsrByte_eq_from_zero]

/-! ### Injectivity -/

/-- Bit 7 after a step tells bit 0 before it, and with it the feedback; the others are what the shift brought. -/
theorem lfsrStep_injective (d : Bool) : Function.Injective (lfsrStep · d) := by
  intro c c' h
  have hbit (k : BitIndex) : (lfsrStep c d).getLsbD k.val = (lfsrStep c' d).getLsbD k.val := congrArg (·.getLsbD k.val) h
  have hzero : c.getLsbD 0 = c'.getLsbD 0 := by
    have h7 := hbit 7
    rw [lfsrStepBitByBit, lfsrStepBitByBit, if_pos rfl, if_pos rfl] at h7
    exact Bool.xor_left_inj.mp h7
  refine BitVec.eq_of_getLsbD_eq fun i hi => ?_
  cases i with
  | zero => exact hzero
  | succ j =>
    have hj := hbit ⟨j, by omega⟩
    have hne : (⟨j, by omega⟩ : BitIndex) ≠ 7 := Fin.ne_of_val_ne (by show j ≠ 7; omega)
    rw [lfsrStepBitByBit, lfsrStepBitByBit, if_neg hne, if_neg hne, hzero] at hj
    split_ifs at hj
    · exact Bool.xor_left_inj.mp hj
    · exact hj

/-- A fold whose every step is injective in the running value is injective in the start value. -/
theorem foldl_injective {α β : Type} {f : β → α → β} (hf : ∀ a, Function.Injective (f · a)) (l : List α) :
    Function.Injective (l.foldl f ·) := by
  induction l with
  | nil => exact fun _ _ h => h
  | cons a l ih => exact fun _ _ h => hf a (ih h)

theorem lfsrByte_injective (b : Byte) : Function.Injective (lfsrByte · b) :=
  foldl_injective (fun k => lfsrStep_injective (b.getLsbD k)) [0, 1, 2, 3, 4, 5, 6, 7]

theorem crc8From_injective (p : List Byte) : Function.Injective (crc8From · p) :=
  foldl_injective lfsrByte_injective p

/-- Different bytes consumed from the same value leave different values. -/
theorem lfsrByte_data_injective (c : Byte) : Function.Injective (lfsrByte c) := by
  intro b b' h
  rw [lfsrByte_eq_of_zero c b, lfsrByte_eq_of_zero c b'] at h
  exact (BitVec.xor_right_inj c).mp (lfsrByte_injective 0#8 h)

/-- A byte with one bit flipped is another byte. -/
theorem xor_bit_ne_self (b : Byte) (k : BitIndex) : b ^^^ (1#8 <<< k.val) ≠ b := by
  intro h
  have hmask : bitMask k = 0#8 := (BitVec.xor_right_inj b).mp (h.trans BitVec.xor_zero.symm)
  have hset : (bitMask k).getLsbD k.val = true := by rw [bitMask_getLsbD, decide_eq_true rfl]
  rw [hmask, BitVec.getLsbD_zero] at hset
  exact Bool.false_ne_true hset

/-- Settles O33: the flipped byte leaves another running CRC, and the bytes after it keep the two apart. -/
theorem everySingleBitErrorChangesTheCrc : Obligations.EverySingleBitErrorChangesTheCrc := by
  intro init p
  induction p generalizing init with
  | nil => exact fun i k hi => absurd hi (Nat.not_lt_zero i)
  | cons b p ih =>
    intro i k hi
    cases i with
    | zero =>
      rw [List.modify_zero_cons, crc8From_cons, crc8From_cons]
      exact fun h => xor_bit_ne_self b k (lfsrByte_data_injective init (crc8From_injective p h))
    | succ i =>
      rw [List.modify_succ_cons, crc8From_cons, crc8From_cons]
      exact ih (lfsrByte init b) i k (Nat.lt_of_succ_lt_succ hi)

end Sys2Proof.Proofs.CrcAlgebra
end

section
/-! The status registers: what a step does to the counters and the reading, the row of each failure class, and the fields as
numbers (10_state.md section 5, 43_frame_interpreter.md section 1, 60_exceptions.md sections 1 and 2). -/

namespace Sys2Proof.Proofs.StatusRegisters

open Sys2Proof Sys2Proof.Machine Sys2Proof.Proofs.FrameAssembler

/-- Settles O39: the top bit is the sign. -/
theorem rawFieldsAreTwosComplement : Obligations.RawFieldsAreTwosComplement := by
  intro p
  rw [fieldTenths, BitVec.toInt_eq_toNat_cond]
  have hsign : 2 * p.toNat < 2 ^ 16 ↔ p.toNat < 2 ^ 15 := by omega
  simp only [hsign]
  rfl

/-! ### What an operation does to the counters and the reading -/

/-- What a step but reset can do to the status registers (rule R33): leave them, or count a frame with exactly one outcome. -/
inductive Tallied (s t : State) : Prop
  | unchanged (counters : t.counters = s.counters) (reading : t.reading = s.reading)
  | incomplete
      (counters : t.counters =
        { s.counters with
          framesTotal := s.counters.framesTotal + 1, framesIncomplete := s.counters.framesIncomplete + 1 })
      (reading : t.reading = s.reading)
  | failed
      (counters : t.counters =
        { s.counters with
          framesTotal := s.counters.framesTotal + 1, checksumFailures := s.counters.checksumFailures + 1 })
      (reading : t.reading = s.reading)
  | passed (bit : s.bitCursor = 0) (byte : s.byteCursor ≠ 0) (sum : s.checksumOk = true)
      (counters : t.counters = { s.counters with framesTotal := s.counters.framesTotal + 1 })
      (reading : t.reading = readingOf s.frameBuffer)

/-- ADVANCE keeps the reading, and the counters but for an overrun. -/
theorem execAdvance_status {s u : State} (h : execAdvance s = .next u) :
    u.reading = s.reading ∧ (u.counters = s.counters ∨ u.counters = s.countFrame.countIncomplete.counters) := by
  obtain ⟨-, hadv⟩ | ⟨-, -, hadv⟩ | ⟨-, -, hadv⟩ := execAdvance_cases s <;>
    (rw [hadv] at h; injection h with h; subst h)
  · exact ⟨rfl, .inl rfl⟩
  · exact ⟨rfl, .inl rfl⟩
  · exact ⟨rfl, .inr rfl⟩

/-- END_OF_FRAME counts a frame with exactly one outcome (rule R144). -/
theorem execEndOfFrame_tallied {s u : State} (h : execEndOfFrame s = .next u) : Tallied s u := by
  obtain ⟨-, -, hend⟩ | ⟨-, -, -, -, hend⟩ | ⟨-, hbit, hbyte, hsum, hend⟩ := execEndOfFrame_cases s <;>
    (rw [hend] at h; injection h with h; subst h)
  · exact .incomplete rfl rfl
  · exact .failed rfl rfl
  · exact .passed hbit hbyte hsum rfl rfl

/-- A symbol's operation does one of the four, and only END_OF_FRAME writes the reading. -/
theorem exec_symbol_tallied {y : Symbol} {s u : State} (h : exec y.instr s = .next u) :
    Tallied s u ∧ (u.reading = s.reading ∨ y = .endOfFrame) := by
  obtain ⟨u', hu', hcases⟩ := exec_symbol_cases y s
  obtain rfl : u' = u := by rw [hu'] at h; injection h
  obtain ⟨-, rfl⟩ | ⟨-, rfl⟩ | ⟨v, -, hadv⟩ | ⟨rfl, hend⟩ := hcases
  · exact ⟨.unchanged rfl rfl, .inl rfl⟩
  · exact ⟨.unchanged rfl rfl, .inl rfl⟩
  · obtain ⟨hreading, hsame | hcounted⟩ := execAdvance_status hadv
    · exact ⟨.unchanged hsame hreading, .inl hreading⟩
    · exact ⟨.incomplete hcounted hreading, .inl hreading⟩
  · exact ⟨execEndOfFrame_tallied hend, .inr rfl⟩

/-! ### What a step does to them -/

/-- What is delivered next is an END_OF_FRAME, as a symbol or as an event (rules R87, R88). -/
def EndsFrame (s : State) : Prop :=
  s.inputs.head? = some (.request (.symbol 4)) ∨
    ∃ ts : Timestamp, s.inputs.head? = some (.request (.edge (eventWord .high ts))) ∧ s.baseValid = true ∧
      2900 ≤ (ts - s.lastEdgeTimestampUs).toNat ∧ (ts - s.lastEdgeTimestampUs).toNat < 3100

/-- A step resets, or does one of the four, and but for an END_OF_FRAME it keeps the reading. -/
theorem step_tallied {s t : State} (hstep : step s = .next t) :
    (s.inputs.head? = some (.request .reset) ∧ t.counters = Counters.zero) ∨
      (Tallied s t ∧ (t.reading = s.reading ∨ EndsFrame s)) := by
  obtain ⟨-, rfl⟩ | ⟨_, _, -, rfl⟩ | ⟨r, rest, u, hinputs, rfl, hrequest⟩ := step_next_cases hstep
  · exact .inr ⟨.unchanged rfl rfl, .inl rfl⟩
  · exact .inr ⟨.unchanged rfl rfl, .inl rfl⟩
  · have hhead : s.inputs.head? = some (.request r) := by rw [hinputs]; rfl
    obtain ⟨rfl, -, rfl⟩ | ⟨reader, -, hquery⟩ | ⟨ts, -, rfl⟩ | ⟨-, -, -, rfl⟩ | ⟨y, hsymbol, hfrom⟩ := hrequest
    · exact .inl ⟨hhead, rfl⟩
    · have hblock := execSnapshot_block hquery
      have hcounters : u.counters = s.counters := by simpa using congrArg State.counters hblock
      have hreading : u.reading = s.reading := by simpa using congrArg State.reading hblock
      exact .inr ⟨.unchanged hcounters hreading, .inl hreading⟩
    · exact .inr ⟨.unchanged rfl rfl, .inl rfl⟩
    · exact .inr ⟨.unchanged rfl rfl, .inl rfl⟩
    · obtain ⟨htallied, hreading⟩ := exec_symbol_tallied hsymbol
      refine .inr ⟨?_, hreading.imp_right fun hy => ?_⟩
      · cases htallied with
        | unchanged hc hr => exact .unchanged hc hr
        | incomplete hc hr => exact .incomplete hc hr
        | failed hc hr => exact .failed hc hr
        | passed hbit hbyte hsum hc hr => exact .passed hbit hbyte hsum hc hr
      · subst hy
        obtain ⟨ts, rfl, hbase, hclass⟩ | rfl := hfrom
        · obtain ⟨-, -, -, hwindow, -⟩ := IntervalClassifier.classifierFollowsItsWindows (ts - s.lastEdgeTimestampUs)
          exact .inr ⟨ts, hhead, hbase, hwindow.mp hclass.symm⟩
        · exact .inl hhead

/-- Settles O35: of the four only a passing frame writes the reading. -/
theorem onlyAPassingFrameChangesTheReading : Obligations.OnlyAPassingFrameChangesTheReading := by
  intro s t hstep hchanged
  obtain ⟨hreset, -⟩ | ⟨htallied, hreading⟩ := step_tallied hstep
  · exact .inl hreset
  · have hends : EndsFrame s := hreading.resolve_left hchanged
    cases htallied with
    | unchanged _ hr => exact absurd hr hchanged
    | incomplete _ hr => exact absurd hr hchanged
    | failed _ hr => exact absurd hr hchanged
    | passed hbit hbyte hsum _ hr =>
      exact .inr ⟨hends, hbit, hbyte, (ChecksumValidator.checksumOk_iff hbyte).mp hsum, hr⟩

/-! ### The accounting of frames -/

theorem framesPassed_incomplete (c : Counters) :
    ({ c with framesTotal := c.framesTotal + 1, framesIncomplete := c.framesIncomplete + 1 } : Counters).framesPassed =
      c.framesPassed := by
  simp only [Counters.framesPassed]
  ring

theorem framesPassed_failed (c : Counters) :
    ({ c with framesTotal := c.framesTotal + 1, checksumFailures := c.checksumFailures + 1 } : Counters).framesPassed =
      c.framesPassed := by
  simp only [Counters.framesPassed]
  ring

theorem framesPassed_passed (c : Counters) :
    ({ c with framesTotal := c.framesTotal + 1 } : Counters).framesPassed = c.framesPassed + 1 := by
  simp only [Counters.framesPassed]
  ring

/-- Settles O36: the four, without reset. -/
theorem everyCountedFrameHasOneOutcome : Obligations.EveryCountedFrameHasOneOutcome := by
  intro s t hstep hreset
  obtain ⟨htallied, -⟩ := (step_tallied hstep).resolve_left fun h => hreset h.1
  cases htallied with
  | unchanged hc hr => exact .inl ⟨hc, hr⟩
  | incomplete hc hr =>
    rw [hc]
    exact .inr ⟨rfl, .inl ⟨hr, framesPassed_incomplete _, .inl ⟨rfl, rfl⟩⟩⟩
  | failed hc hr =>
    rw [hc]
    exact .inr ⟨rfl, .inl ⟨hr, framesPassed_failed _, .inr ⟨rfl, rfl⟩⟩⟩
  | passed _ _ _ hc hr =>
    rw [hc]
    exact .inr ⟨rfl, .inr ⟨hr, framesPassed_passed _, rfl, rfl⟩⟩

/-- A counter that counts moves up by one at most (rule R31). -/
theorem toNat_count_le (c : Count) : (c + 1).toNat ≤ c.toNat + 1 := by
  rw [BitVec.toNat_add]
  exact Nat.mod_le _ _

/-- Settles O37: the frames move by exactly one, since they do not wrap, and the failures by at most one in all. -/
theorem failuresNeverExceedFrames : Obligations.FailuresNeverExceedFrames := by
  intro s t haccounted hbelow hstep
  have htotal : (s.counters.framesTotal + 1).toNat = s.counters.framesTotal.toNat + 1 := by
    rw [BitVec.toNat_add]
    exact Nat.mod_eq_of_lt hbelow
  have hincomplete := toNat_count_le s.counters.framesIncomplete
  have hfailures := toNat_count_le s.counters.checksumFailures
  unfold Counters.accounted at haccounted ⊢
  obtain ⟨-, hzero⟩ | ⟨htallied, -⟩ := step_tallied hstep
  · rw [hzero]
    exact Nat.zero_le _
  · cases htallied with
    | unchanged hc _ => rw [hc]; exact haccounted
    | incomplete hc _ => rw [hc]; simp only [htotal]; omega
    | failed hc _ => rw [hc]; simp only [htotal]; omega
    | passed _ _ _ hc _ => rw [hc]; simp only [htotal]; omega

/-! ### The rows of the failure classes -/

/-- What a symbol's operation leaves, by the failure it raises (the table of rule R210). -/
def LeavesRow (y : Symbol) (s t : State) : Option Failure → Prop
  | some .noiseInterval => t = s
  | some .incompleteFrame => t = s.countFrame.countIncomplete
  | some .checksumMismatch => t = s.countFrame.countChecksumFailure
  | some .bufferOverrun => ∃ v, y = bitSymbol v ∧ t = (s.writeBit v).zeroCursors.countFrame.countIncomplete
  | none => t.counters.framesIncomplete = s.counters.framesIncomplete ∧
      t.counters.checksumFailures = s.counters.checksumFailures

/-- A bit symbol overruns exactly at the last bit of the last byte. -/
theorem symbolFailure_bitSymbol (s : State) (v : Bool) :
    s.symbolFailure (bitSymbol v) = if s.bitCursor = 7 ∧ s.byteCursor = 49 then some .bufferOverrun else none := by
  cases v <;> simp [bitSymbol, State.symbolFailure, State.atLastBit, State.atLastByte]

/-- Every symbol's operation leaves the row of the failure it raises. -/
theorem exec_symbol_leavesRow (y : Symbol) (s : State) :
    ∃ t, exec y.instr s = .next t ∧ LeavesRow y s t (s.symbolFailure y) := by
  obtain ⟨t, ht, hcases⟩ := exec_symbol_cases y s
  refine ⟨t, ht, ?_⟩
  obtain ⟨rfl, rfl⟩ | ⟨rfl, rfl⟩ | ⟨v, rfl, hadv⟩ | ⟨rfl, hend⟩ := hcases
  · rfl
  · exact ⟨rfl, rfl⟩
  · rw [symbolFailure_bitSymbol]
    obtain ⟨hbit, h⟩ | ⟨-, hbyte, h⟩ | ⟨hbit, hbyte, h⟩ := execAdvance_cases (s.writeBit v) <;>
      (rw [h] at hadv; injection hadv with hadv; subst hadv)
    · rw [if_neg fun hlast => hbit hlast.1]
      exact ⟨rfl, rfl⟩
    · rw [if_neg fun hlast => hbyte hlast.2]
      exact ⟨rfl, rfl⟩
    · rw [if_pos ⟨hbit, hbyte⟩]
      exact ⟨v, rfl, rfl⟩
  · show LeavesRow .endOfFrame s t s.frameFailure
    obtain ⟨hfail, -, h⟩ | ⟨hfail, -, -, -, h⟩ | ⟨hfail, -, -, -, h⟩ := execEndOfFrame_cases s <;>
      (rw [h] at hend; injection hend with hend; subst hend; rw [hfail])
    · rfl
    · rfl
    · exact ⟨rfl, rfl⟩

/-- Settles O38: each clause is its row; with an overrun the bit write says what the buffer reads. -/
theorem failuresRecordTheirRow : Obligations.FailuresRecordTheirRow := by
  intro y s
  obtain ⟨t, ht, hrow⟩ := exec_symbol_leavesRow y s
  refine ⟨t, ht, fun h => ?_, fun h => ?_, fun h => ?_, fun h => ?_, fun h => ?_⟩ <;> rw [h] at hrow
  · exact hrow
  · exact hrow
  · exact hrow
  · obtain ⟨v, hy, rfl⟩ := hrow
    exact ⟨v, hy, fun hm a k => readByte_writeBit_getLsbD hm v a k, rfl⟩
  · exact hrow

end Sys2Proof.Proofs.StatusRegisters
end

section
/-! The readers and reset: what a query in progress returns, that readers never write the block (20_memory.md sections 6 and 7),
and what RESET leaves (70_reset_and_hazards.md section 1). -/

namespace Sys2Proof.Proofs.ReadersAndReset

open Sys2Proof Sys2Proof.Machine Sys2Proof.Proofs.SnapshotQuery

/-! ### Queries -/

/-- A query in progress ends with the result of what it has seen (rule R63). -/
theorem exec_snapshot_of_queryOf_some {reader : Nat} {s : State} {w : QueryWindow} (hsome : s.queryOf reader = some w) :
    exec (.snapshot reader) s = .next ((s.closeQuery reader).reply (.snapshot reader (w.result s.freeCount))) := by
  rw [exec_snapshot]
  obtain ⟨hnone, -⟩ | ⟨w', hsome', hnext⟩ := execSnapshot_cases reader s
  · exact absurd (hsome.symm.trans hnone) (Option.some_ne_none w)
  · obtain rfl : w = w' := Option.some_inj.mp (hsome.symm.trans hsome')
    exact hnext

/-- Settles O41: each component of the result is that of a value picked among those seen. -/
theorem overlappingSnapshotReturnsSeenValues : Obligations.OverlappingSnapshotReturnsSeenValues := by
  intro reader s w hsome
  exact ⟨w.result s.freeCount, exec_snapshot_of_queryOf_some hsome,
    ⟨_, w.pick_mem _, rfl⟩, ⟨_, w.pick_mem _, rfl⟩, ⟨_, w.pick_mem _, rfl⟩, ⟨_, w.pick_mem _, rfl⟩⟩

/-- A query that has seen one value picks that one. -/
theorem pick_of_later_nil {w : QueryWindow} (h : w.later = []) (n : Nat) : w.pick n = w.first := by
  have hmem := w.pick_mem n
  rw [QueryWindow.seen, h] at hmem
  exact List.mem_singleton.mp hmem

/-- So its result is that value, whatever the free choices. -/
theorem result_of_later_nil {w : QueryWindow} (h : w.later = []) (n : Nat) : w.result n = w.first := by
  simp only [QueryWindow.result, pick_of_later_nil h]

/-- A reader without a query in progress that begins one has that one in progress. -/
theorem queryOf_openQuery {reader : Nat} {s : State} (h : s.queryOf reader = none) :
    (s.openQuery reader).queryOf reader = some ⟨reader, s.status, []⟩ := by
  rw [State.queryOf] at h ⊢
  simp [List.find?_append, h]

theorem step_beginQuery {s : State} {reader : Nat} {rest : List Input} (h : s.inputs = .beginQuery reader :: rest) :
    step s = .next ((s.takeInput rest).openQuery reader) := by
  unfold step
  rw [h]

theorem step_query {s u : State} {reader : Nat} {rest : List Input} (h : s.inputs = .request (.query reader) :: rest)
    (hnext : exec (.snapshot reader) (s.takeInput rest) = .next u) : step s = .next u.observe := by
  rw [step_request h rfl, hnext]
  rfl

/-- A query that returns right after its beginning replies with the status registers as they stand. -/
theorem exec_snapshot_after_openQuery {reader : Nat} {s : State} (h : s.queryOf reader = none) (rest : List Input) :
    exec (.snapshot reader) ((s.openQuery reader).takeInput rest) =
      .next ((((s.openQuery reader).takeInput rest).closeQuery reader).reply (.snapshot reader s.status)) := by
  rw [exec_snapshot_of_queryOf_some (s := (s.openQuery reader).takeInput rest) (queryOf_openQuery h),
    result_of_later_nil rfl]

/-- Settles O42: the query has seen the status registers once, at its beginning, and nothing has happened since. -/
theorem quietQueryReturnsCurrentValues : Obligations.QuietQueryReturnsCurrentValues := by
  intro reader s rest hothers hinputs
  have hopen := step_beginQuery hinputs
  have hclose := step_query (s := (s.takeInput (.request (.query reader) :: rest)).openQuery reader) rfl
    (exec_snapshot_after_openQuery (queryOf_eq_none_iff.mpr hothers) rest)
  have hrun := (run_step hopen 1).trans ((run_step hclose 0).trans (run_zero _))
  refine ⟨_, hrun, ?_, ?_, ?_⟩
  · rfl
  · rw [State.block_observe]
    rfl
  · rw [State.observe_replies]
    rfl

/-- Settles O43: without an event, a symbol or a reset a step takes its delivery and serves the readers. -/
theorem readersNeverWriteTheBlock : Obligations.ReadersNeverWriteTheBlock := by
  intro s t hstep hchanged
  obtain ⟨-, rfl⟩ | ⟨_, _, -, rfl⟩ | ⟨r, rest, u, hinputs, rfl, hrequest⟩ := step_next_cases hstep
  · exact absurd rfl hchanged
  · exact absurd rfl hchanged
  · have hhead : s.inputs.head? = some (.request r) := by rw [hinputs]; rfl
    obtain ⟨rfl, -, -⟩ | ⟨reader, -, hquery⟩ | ⟨ts, rfl, -⟩ | ⟨ts, rfl, -, -⟩ | ⟨y, -, ⟨ts, rfl, -, -⟩ | rfl⟩ := hrequest
    · exact .inl hhead
    · exact absurd (execSnapshot_block hquery) hchanged
    · exact .inr (.inl ⟨_, hhead⟩)
    · exact .inr (.inl ⟨_, hhead⟩)
    · exact .inr (.inl ⟨_, hhead⟩)
    · exact .inr (.inr ⟨_, hhead⟩)

/-! ### Reset -/

/-- Settles O45: the buffer reset leaves is empty, so every byte reads as unlisted. -/
theorem resetStateIsAllZero : Obligations.ResetStateIsAllZero :=
  ⟨rfl, rfl, rfl, rfl, fun _ => rfl, rfl, rfl, rfl, rfl, rfl⟩

theorem exec_reset (s : State) : exec .reset s = execReset s := rfl

/-- Outside a query RESET completes in the zeroed block (rule R240). -/
theorem exec_reset_of_noQuery {s : State} (h : s.queries = []) : exec .reset s = .next s.zeroBlock := by
  rw [exec_reset, execReset, h]
  rfl

/-- Settles O46: the zeroed block is the block of the reset state. -/
theorem resetZeroesTheBlock : Obligations.ResetZeroesTheBlock := by
  intro s h
  exact ⟨s.zeroBlock, exec_reset_of_noQuery h, rfl, rfl, rfl, rfl, rfl⟩

/-- Settles O47: the test for a query in progress comes first. -/
theorem resetDuringAQueryIsRefused : Obligations.ResetDuringAQueryIsRefused := by
  intro s h
  rw [exec_reset, execReset, if_neg (by simpa using h)]

end Sys2Proof.Proofs.ReadersAndReset
end

section
/-! The encodings, both ways round, and the step on what is delivered (30_encoding.md sections 1, 3, 4, 5 and 6). -/

namespace Sys2Proof.Proofs.EncodingRoundTrip

open Sys2Proof Sys2Proof.Machine

/-! ### Words -/

/-- Settles O51: each word is computed by the decoder. -/
theorem wordsDecodeAsTheSpecEncodesThem : Obligations.WordsDecodeAsTheSpecEncodesThem :=
  ⟨rfl, rfl, rfl, rfl, rfl, rfl, rfl, rfl, rfl, rfl⟩

/-- A request's bits fit their width and are read back as the request (rules R86, R88). -/
theorem requestOfWord_word {r : Request} {nbits w : Nat} (h : r.word = some (nbits, w)) :
    w < 2 ^ nbits ∧ requestOfWord nbits w = .ok r := by
  cases r with
  | edge word =>
    obtain ⟨rfl, rfl⟩ : 72 = nbits ∧ word.toNat = w := by simpa [Request.word] using h
    have hlt : word.toNat < 2 ^ 65 := word.isLt
    refine ⟨hlt.trans (by decide), ?_⟩
    rw [requestOfWord, if_neg (by decide), if_neg (by decide), if_pos hlt, BitVec.ofNat_toNat, BitVec.setWidth_eq]
  | symbol code =>
    obtain ⟨rfl, rfl⟩ : 8 = nbits ∧ code.toNat = w := by simpa [Request.word] using h
    have hlt : code.toNat < 2 ^ 3 := code.isLt
    refine ⟨hlt.trans (by decide), ?_⟩
    rw [requestOfWord, if_neg (by decide), if_pos (by decide), if_pos hlt, BitVec.ofNat_toNat, BitVec.setWidth_eq]
  | query reader => exact nomatch h
  | reset => exact nomatch h

/-! ### From the operation to its request and back -/

theorem encodable (i : Instr) : Laws.Encodable.Statement i := by
  cases i with
  | latch t => exact Laws.Encodable.latch t
  | prebase t => exact Laws.Encodable.prebase t
  | measure t => exact Laws.Encodable.measure t
  | zeroBit => exact Laws.Encodable.zeroBit
  | oneBit => exact Laws.Encodable.oneBit
  | sync => exact Laws.Encodable.sync
  | endOfFrame => exact Laws.Encodable.endOfFrame
  | noise => exact Laws.Encodable.noise
  | advance => exact Laws.Encodable.advance
  | overrun => exact Laws.Encodable.overrun
  | crc8 => exact Laws.Encodable.crc8
  | crcStep crc d => exact Laws.Encodable.crcStep crc d
  | interpret => exact Laws.Encodable.interpret
  | snapshot reader => exact Laws.Encodable.snapshot reader
  | reset => exact Laws.Encodable.reset

/-- An operation that can be asked for has a request, and that one has a meaning. -/
theorem exists_encode {i : Instr} (hwf : i.wf = true) : ∃ r, encode i = some r ∧ r.wf = true := by
  obtain ⟨hsome, hmeaning⟩ := encodable i
  obtain ⟨r, hr⟩ := Option.isSome_iff_exists.mp (hsome.trans hwf)
  exact ⟨r, hr, hmeaning r hr⟩

/-- A symbol's code decodes to its operation, whatever the baseline (rule R88). -/
theorem decode_code (baseValid : Bool) (y : Symbol) : decode baseValid (.symbol y.code) = .ok y.instr := by
  simp only [decode, symbolOfCode_code]

/-- An operation's request decodes to it under the `base_valid` of its row (rules R87, R88, R97). -/
theorem decode_encode {i : Instr} {baseValid : Bool} {r : Request} (hfits : i.fitsBase baseValid = true)
    (h : encode i = some r) : decode baseValid r = .ok i := by
  cases i with
  | latch t =>
    obtain rfl := Option.some_inj.mp h
    exact decode_edge baseValid .low t
  | prebase t =>
    obtain rfl := Option.some_inj.mp h
    obtain rfl : baseValid = false := by simpa [Instr.fitsBase] using hfits
    exact decode_edge false .high t
  | measure t =>
    obtain rfl := Option.some_inj.mp h
    obtain rfl : baseValid = true := hfits
    exact decode_edge true .high t
  | zeroBit => obtain rfl := Option.some_inj.mp h; exact decode_code baseValid .zeroBit
  | oneBit => obtain rfl := Option.some_inj.mp h; exact decode_code baseValid .oneBit
  | sync => obtain rfl := Option.some_inj.mp h; exact decode_code baseValid .sync
  | endOfFrame => obtain rfl := Option.some_inj.mp h; exact decode_code baseValid .endOfFrame
  | noise => obtain rfl := Option.some_inj.mp h; exact decode_code baseValid .noise
  | advance => exact nomatch h
  | overrun => exact nomatch h
  | crc8 => exact nomatch h
  | crcStep crc d => exact nomatch h
  | interpret => exact nomatch h
  | snapshot reader => obtain rfl := Option.some_inj.mp h; rfl
  | reset => obtain rfl := Option.some_inj.mp h; rfl

/-- Settles O52: the operation's request, its decode and the reading of its bits, one after the other. -/
theorem decodeInvertsEncode : Obligations.DecodeInvertsEncode := by
  intro i baseValid hwf hfits
  obtain ⟨r, hr, hmeaning⟩ := exists_encode hwf
  have hdecode := decode_encode hfits hr
  refine ⟨r, hr, hmeaning, hdecode, fun nbits w hword => ?_⟩
  obtain ⟨hlt, hrequest⟩ := requestOfWord_word hword
  refine ⟨hlt, hrequest, ?_⟩
  simp only [decodeWord, hrequest, hdecode]

/-! ### From the request to its operation and back -/

/-- The table of symbol codes has the rows 0 to 4 (rule R88). -/
theorem symbolOfCode_isSome (code : SymbolCode) : (symbolOfCode code).isSome = decide (code.toNat < 5) := by
  revert code; decide

/-- A symbol's operation can be asked for under every baseline, by its code. -/
theorem encode_symbol (y : Symbol) (baseValid : Bool) :
    y.instr.wf = true ∧ y.instr.fitsBase baseValid = true ∧ encode y.instr = some (.symbol y.code) := by
  cases y <;> exact ⟨rfl, rfl, rfl⟩

/-- What an event decodes to encodes to that event (rule R87). -/
theorem encode_decoded_edge (l : Level) (t : Timestamp) (baseValid : Bool) {i : Instr}
    (h : decode baseValid (.edge (eventWord l t)) = .ok i) :
    i.wf = true ∧ i.fitsBase baseValid = true ∧ encode i = some (.edge (eventWord l t)) := by
  rw [decode_edge] at h
  injection h with h
  subst h
  cases l <;> cases baseValid <;> exact ⟨rfl, rfl, rfl⟩

/-- What a request decodes to encodes to that request. -/
theorem encode_decoded {r : Request} {baseValid : Bool} {i : Instr} (h : decode baseValid r = .ok i) :
    i.wf = true ∧ i.fitsBase baseValid = true ∧ encode i = some r := by
  cases r with
  | edge word =>
    obtain ⟨l, t, rfl⟩ : ∃ l t, word = eventWord l t := ⟨_, _, (eventWord_levelOf word).symm⟩
    exact encode_decoded_edge l t baseValid h
  | symbol code =>
    simp only [decode] at h
    split at h
    · rename_i y hy
      injection h with h
      subst h
      rw [← code_symbolOfCode hy]
      exact encode_symbol y baseValid
    · exact nomatch h
  | query reader => injection h with h; subst h; exact ⟨rfl, rfl, rfl⟩
  | reset => injection h with h; subst h; exact ⟨rfl, rfl, rfl⟩

/-- A request has a meaning exactly when the decoder reads it. -/
theorem wf_iff_decodes (r : Request) (baseValid : Bool) : r.wf = true ↔ ∃ i, decode baseValid r = .ok i := by
  cases r with
  | edge word => exact ⟨fun _ => ⟨_, rfl⟩, fun _ => rfl⟩
  | symbol code =>
    rw [Request.wf, ← symbolOfCode_isSome]
    simp only [decode]
    cases symbolOfCode code <;> simp
  | query reader => exact ⟨fun _ => ⟨_, rfl⟩, fun _ => rfl⟩
  | reset => exact ⟨fun _ => ⟨_, rfl⟩, fun _ => rfl⟩

/-- Settles O53: every request read is the encoding of what was read. -/
theorem encodeInvertsDecode : Obligations.EncodeInvertsDecode := by
  intro r baseValid
  exact ⟨fun i h => encode_decoded h, wf_iff_decodes r baseValid⟩

/-! ### The step -/

/-- Settles O48: the delivery is taken, and the observation is the map over the queries. -/
theorem stepPerformsTheDecodedOperation : Obligations.StepPerformsTheDecodedOperation := by
  intro s r rest i hinputs hdecode
  rw [step_request hinputs hdecode, State.takeInput]
  cases exec i { s with inputs := rest } <;> rfl

theorem step_idle {s : State} (h : s.inputs = []) : step s = .next s := by
  unfold step
  rw [h]

/-- Settles O49: the two arms of the step without a request. -/
theorem stepWithoutARequest : Obligations.StepWithoutARequest := by
  intro s
  exact ⟨step_idle, fun reader rest h => ReadersAndReset.step_beginQuery h⟩

/-- Settles O50: the table has no row for the code, and the step passes the decoder's rejection on. -/
theorem reservedSymbolCodesAreRefused : Obligations.ReservedSymbolCodesAreRefused := by
  intro s code rest hinputs hreserved
  have hnone : symbolOfCode code = none := by
    rw [← Option.not_isSome_iff_eq_none, symbolOfCode_isSome]
    simpa using hreserved
  unfold step
  rw [hinputs]
  simp only [decode, hnone]

end Sys2Proof.Proofs.EncodingRoundTrip
end

section
/-! Runs of the machine: that no delivery of an environment that keeps to the spec stops it (60_exceptions.md section 2), and that
the readers have no influence on the block (20_memory.md sections 6 and 7). -/

namespace Sys2Proof.Proofs.MachineRuns

open Sys2Proof Sys2Proof.Machine Sys2Proof.Proofs.SnapshotQuery Sys2Proof.Proofs.ReadersAndReset

/-! ### One step on each kind of delivery -/

/-- A step that goes on takes the delivery at the front, whatever it is. -/
theorem step_takes_delivery {s t : State} {x : Input} {rest : List Input} (hinputs : s.inputs = x :: rest)
    (hstep : step s = .next t) : t.inputs = rest := by
  obtain ⟨hnil, -⟩ | ⟨_, rest', hbegin, rfl⟩ | ⟨r, rest', u, hinputs', rfl, hrequest⟩ := step_next_cases hstep
  · exact nomatch hinputs.symm.trans hnil
  · exact (List.cons.inj (hbegin.symm.trans hinputs)).2
  · obtain rfl : rest' = rest := (List.cons.inj (hinputs'.symm.trans hinputs)).2
    obtain ⟨-, -, rfl⟩ | ⟨reader, -, hquery⟩ | ⟨ts, -, rfl⟩ | ⟨-, -, -, rfl⟩ | ⟨y, hsymbol, -⟩ := hrequest
    · rfl
    · obtain ⟨-, hnext⟩ | ⟨w, -, hnext⟩ := execSnapshot_cases reader (s.takeInput rest') <;>
        (rw [hnext] at hquery; injection hquery with hquery; subst hquery; rfl)
    · rfl
    · rfl
    · exact (exec_symbol_progress hsymbol).inputs

/-- Ending a query takes its reader's first entry from the list of readers. -/
theorem map_reader_eraseP (reader : Nat) (ws : List QueryWindow) :
    (ws.eraseP (fun w => w.reader = reader)).map (·.reader) = (ws.map (·.reader)).erase reader := by
  rw [List.erase_eq_eraseP', List.eraseP_map]
  rfl

/-- A query always returns: the block stays, and its reader has one query less in progress, if it had any. -/
theorem step_query_completes {s : State} {reader : Nat} {rest : List Input}
    (hinputs : s.inputs = .request (.query reader) :: rest) :
    ∃ t, step s = .next t ∧ t.block = s.block ∧
      t.queries.map (·.reader) = (s.queries.map (·.reader)).erase reader := by
  obtain ⟨hnone, hnext⟩ | ⟨w, -, hnext⟩ := execSnapshot_cases reader (s.takeInput rest)
  · refine ⟨_, step_query hinputs hnext, rfl, ?_⟩
    have hothers : reader ∉ s.queries.map (·.reader) := by
      have h := queryOf_eq_none_iff.mp hnone
      simpa using h
    rw [List.erase_of_not_mem hothers]
    simp
  · refine ⟨_, step_query hinputs hnext, rfl, ?_⟩
    rw [← map_reader_eraseP]
    simp

theorem observe_of_noQuery {s : State} (h : s.queries = []) : s.observe = s := by
  rw [State.observe, h, List.map_nil, ← h]

/-- A reset outside a query zeroes the block and takes its delivery. -/
theorem step_reset_completes {s : State} {rest : List Input} (hinputs : s.inputs = .request .reset :: rest)
    (hquiet : s.queries = []) : step s = .next (s.takeInput rest).zeroBlock := by
  have hexec := exec_reset_of_noQuery (s := s.takeInput rest) hquiet
  rw [step_request hinputs rfl, hexec, observed,
    observe_of_noQuery (s := (s.takeInput rest).zeroBlock) hquiet]

/-- The requests that write the block as the edge handler does: events and the symbols in their place (20_memory.md section 6;
log 11). -/
def EdgeLike (r : Request) : Prop := r ≠ .reset ∧ ∀ reader, r ≠ .query reader

theorem edgeLike_edge (word : EventWord) : EdgeLike (.edge word) := ⟨nofun, nofun⟩

theorem edgeLike_symbol (code : SymbolCode) : EdgeLike (.symbol code) := ⟨nofun, nofun⟩

/-- An event or a symbol starts and ends no query; those in progress see the status registers it leaves. -/
theorem step_edgeLike_queries {s t : State} {r : Request} {rest : List Input} (hedge : EdgeLike r)
    (hinputs : s.inputs = .request r :: rest) (hstep : step s = .next t) :
    t.queries = s.queries.map (·.see t.status) := by
  obtain ⟨hnil, -⟩ | ⟨_, _, hbegin, -⟩ | ⟨r', rest', u, hinputs', rfl, hrequest⟩ := step_next_cases hstep
  · exact nomatch hinputs.symm.trans hnil
  · exact nomatch hinputs.symm.trans hbegin
  · obtain ⟨rfl, rfl⟩ : r = r' ∧ rest = rest' := by simpa using hinputs.symm.trans hinputs'
    obtain ⟨rfl, -, -⟩ | ⟨reader, rfl, -⟩ | ⟨ts, -, rfl⟩ | ⟨-, -, -, rfl⟩ | ⟨y, hsymbol, -⟩ := hrequest
    · exact absurd rfl hedge.1
    · exact absurd rfl (hedge.2 reader)
    · rfl
    · rfl
    · rw [State.observe_queries, (exec_symbol_progress hsymbol).queries]
      rfl

/-- Every event completes, and every symbol of a code the spec gives a meaning (rules R88, R91). -/
theorem step_edgeLike_completes {s : State} {r : Request} {rest : List Input} (hedge : EdgeLike r) (hwf : r.wf = true)
    (hinputs : s.inputs = .request r :: rest) : ∃ t, step s = .next t := by
  cases r with
  | edge word =>
    rw [← eventWord_levelOf word] at hinputs
    obtain ⟨u, hu, -⟩ := IntervalClassifier.everyEventPerformsOneLeaf s rest _ _ hinputs
    exact ⟨_, hu⟩
  | symbol code =>
    obtain ⟨y, hy⟩ : ∃ y, symbolOfCode code = some y :=
      Option.isSome_iff_exists.mp ((EncodingRoundTrip.symbolOfCode_isSome code).trans hwf)
    obtain ⟨u, hu, -⟩ := exec_symbol_cases y (s.takeInput rest)
    rw [← code_symbolOfCode hy] at hinputs
    rw [step_request hinputs (EncodingRoundTrip.decode_code _ y), hu]
    exact ⟨_, rfl⟩
  | query reader => exact absurd rfl (hedge.2 reader)
  | reset => exact absurd rfl hedge.1

/-! ### No delivery stops the machine -/

/-- The readers of the queries in progress do not change when these see the status registers. -/
theorem map_reader_see (ws : List QueryWindow) (st : Status) :
    (ws.map (·.see st)).map (·.reader) = ws.map (·.reader) := by
  rw [List.map_map]
  rfl

/-- A safe state's next delivery that is an event or a symbol has a meaning, and what follows it is safe. -/
theorem keepsToSpec_edgeLike {readers : List Nat} {r : Request} {rest : List Input} (hedge : EdgeLike r)
    (h : keepsToSpec readers (.request r :: rest) = true) : r.wf = true ∧ keepsToSpec readers rest = true := by
  cases r with
  | edge word => exact ⟨rfl, (Bool.and_eq_true_iff.mp h).2⟩
  | symbol code => exact Bool.and_eq_true_iff.mp h
  | query reader => exact absurd rfl (hedge.2 reader)
  | reset => exact absurd rfl hedge.1

theorem step_of_safe_edgeLike {s : State} {r : Request} {rest : List Input} (hedge : EdgeLike r)
    (hinputs : s.inputs = .request r :: rest) (hsafe : s.Safe) : ∃ t, step s = .next t ∧ t.Safe := by
  rw [State.Safe, hinputs] at hsafe
  obtain ⟨hwf, hkeeps⟩ := keepsToSpec_edgeLike hedge hsafe
  obtain ⟨t, ht⟩ := step_edgeLike_completes hedge hwf hinputs
  refine ⟨t, ht, ?_⟩
  rw [State.Safe, step_takes_delivery hinputs ht, step_edgeLike_queries hedge hinputs ht, map_reader_see]
  exact hkeeps

/-- A safe state goes on, in a safe state. -/
theorem step_of_safe {s : State} (hsafe : s.Safe) : ∃ t, step s = .next t ∧ t.Safe := by
  match hinputs : s.inputs with
  | [] => exact ⟨s, EncodingRoundTrip.step_idle hinputs, hsafe⟩
  | .beginQuery reader :: rest =>
    rw [State.Safe, hinputs] at hsafe
    refine ⟨_, step_beginQuery hinputs, ?_⟩
    rw [State.Safe, State.openQuery_queries, List.map_append]
    exact hsafe
  | .request (.query reader) :: rest =>
    rw [State.Safe, hinputs] at hsafe
    obtain ⟨t, ht, -, hreaders⟩ := step_query_completes hinputs
    refine ⟨t, ht, ?_⟩
    rw [State.Safe, step_takes_delivery hinputs ht, hreaders]
    exact hsafe
  | .request .reset :: rest =>
    rw [State.Safe, hinputs] at hsafe
    obtain ⟨hempty, hkeeps⟩ := Bool.and_eq_true_iff.mp hsafe
    have hquiet : s.queries = [] := by simpa using hempty
    exact ⟨_, step_reset_completes hinputs hquiet, hkeeps⟩
  | .request (.edge word) :: rest => exact step_of_safe_edgeLike (edgeLike_edge word) hinputs hsafe
  | .request (.symbol code) :: rest => exact step_of_safe_edgeLike (edgeLike_symbol code) hinputs hsafe

/-- Settles O57, by induction on the steps: each goes on, in a safe state. -/
theorem noDeliveryStopsTheDecoder : Obligations.NoDeliveryStopsTheDecoder := by
  intro s n
  induction n generalizing s with
  | zero => exact fun _ => ⟨s, run_zero s⟩
  | succ n ih =>
    intro hsafe
    obtain ⟨u, hu, husafe⟩ := step_of_safe hsafe
    obtain ⟨t, ht⟩ := ih u husafe
    exact ⟨t, (run_step hu n).trans ht⟩

/-! ### The readers have no influence -/

/-- The block of one state in the environment of another: its deliveries, queries, replies and free choices. -/
def under (s e : State) : State :=
  { s with inputs := e.inputs, queries := e.queries, replies := e.replies, freeCount := e.freeCount }

/-- Only the block of the first state matters. -/
theorem under_eq_of_block_eq {s s' : State} (h : s.block = s'.block) (e : State) : under s e = under s' e := by
  have hunder (x : State) : under x e = under x.block e := rfl
  rw [hunder s, h, ← hunder s']

/-- A symbol's operation is the same in every environment. -/
theorem exec_symbol_under {y : Symbol} {s u : State} (e : State) (h : exec y.instr s = .next u) :
    exec y.instr (under s e) = .next (under u e) := by
  have hprogress := exec_symbol_progress h
  have hsame := exec_symbol_within (under s e) h
  have hcontext : u.within (under s e) = under u e := by
    simp only [State.within, under, hprogress.lastEdge, hprogress.base]
  exact hcontext ▸ hsame

/-- So is every operation that can be asked for but SNAPSHOT, in an environment without a query. -/
theorem exec_under {i : Instr} (hwf : i.wf = true) (hquery : ∀ reader, i ≠ .snapshot reader) {s u e : State}
    (he : e.queries = []) (h : exec i s = .next u) : exec i (under s e) = .next (under u e) := by
  cases i with
  | latch t => injection h with h; subst h; rfl
  | prebase t => injection h with h; subst h; rfl
  | measure t =>
    cases hbase : s.baseValid with
    | true =>
      rw [IntervalClassifier.exec_measure_of_base hbase] at h
      rw [IntervalClassifier.exec_measure_of_base (s := under s e) hbase]
      exact exec_symbol_under e h
    | false =>
      rw [IntervalClassifier.measureWithoutBaselineDropsTheEvent t s hbase] at h
      injection h with h
      subst h
      exact IntervalClassifier.measureWithoutBaselineDropsTheEvent t (under s e) hbase
  | zeroBit => exact exec_symbol_under (y := .zeroBit) e h
  | oneBit => exact exec_symbol_under (y := .oneBit) e h
  | sync => exact exec_symbol_under (y := .sync) e h
  | endOfFrame => exact exec_symbol_under (y := .endOfFrame) e h
  | noise => exact exec_symbol_under (y := .noise) e h
  | advance => exact nomatch hwf
  | overrun => exact nomatch hwf
  | crc8 => exact nomatch hwf
  | crcStep crc d => exact nomatch hwf
  | interpret => exact nomatch hwf
  | snapshot reader => exact absurd rfl (hquery reader)
  | reset =>
    cases hq : s.queries with
    | nil =>
      rw [exec_reset_of_noQuery hq] at h
      injection h with h
      subst h
      exact exec_reset_of_noQuery (s := under s e) he
    | cons w ws =>
      rw [resetDuringAQueryIsRefused s (by simp [hq])] at h
      exact nomatch h

/-- A delivery that is not a reader's, who begins a query or has it return. -/
def notReaders : Input → Bool
  | .beginQuery _ => false
  | .request (.query _) => false
  | _ => true

/-- A step on what a reader does leaves the block (20_memory.md section 6). -/
theorem step_readers_block {s t : State} {x : Input} {rest : List Input} (hreader : notReaders x = false)
    (hinputs : s.inputs = x :: rest) (hstep : step s = .next t) : t.block = s.block := by
  by_contra hchanged
  obtain hhead | ⟨word, hhead⟩ | ⟨code, hhead⟩ := readersNeverWriteTheBlock s t hstep hchanged <;>
    (rw [hinputs] at hhead; obtain rfl := Option.some_inj.mp hhead; exact nomatch hreader)

/-- A step on anything else does the same to the block in an environment without a query. -/
theorem step_under {s t e : State} {x : Input} {rest quiet : List Input} (hreader : notReaders x = true)
    (hinputs : s.inputs = x :: rest) (hstep : step s = .next t) (he : e.queries = []) (heinputs : e.inputs = x :: quiet) :
    step (under s e) = .next (under t (e.takeInput quiet)) := by
  obtain ⟨hnil, -⟩ | ⟨_, _, hbegin, -⟩ | ⟨r, rest', i, u, hinputs', hdecode, hexec, rfl⟩ := step_cases hstep
  · exact nomatch hinputs.symm.trans hnil
  · obtain rfl := (List.cons.inj (hinputs.symm.trans hbegin)).1
    exact nomatch hreader
  · obtain rfl := (List.cons.inj (hinputs.symm.trans hinputs')).1
    obtain ⟨hwf, -, hencode⟩ := EncodingRoundTrip.encode_decoded hdecode
    have hquery (reader : Nat) : i ≠ .snapshot reader := by
      rintro rfl
      obtain rfl := Option.some_inj.mp hencode
      exact nomatch hreader
    have hunder := exec_under hwf hquery (e := e.takeInput quiet) he hexec
    have hobserve := observe_of_noQuery (s := under u (e.takeInput quiet)) he
    have hstep' := step_request (s := under s e) heinputs hdecode
    rw [hstep']
    exact (congrArg observed hunder).trans (congrArg Host.Outcome.next hobserve)

/-- A run that goes on goes on in its first step. -/
theorem step_of_run_succ {k : Nat} {s t : State} (hrun : Sys2Proof.core.run (k + 1) s = .next t) :
    ∃ v, step s = .next v ∧ Sys2Proof.core.run k v = .next t := by
  have hsucc := run_succ Sys2Proof.core k s
  cases hstep : Sys2Proof.core.step s with
  | next v => exact ⟨v, hstep, (run_step hstep k).symm.trans hrun⟩
  | fault r => exact nomatch r
  | refused r =>
    rw [hstep] at hsucc
    exact nomatch hsucc.symm.trans hrun

/-- The deliveries of a list that are not a reader's. -/
def quietOf (inputs : List Input) : List Input := inputs.filter notReaders

/-- The run without the readers' deliveries leaves the block of the run with them. -/
theorem run_under {t : State} (inputs : List Input) : ∀ {s e : State}, s.inputs = inputs →
    Sys2Proof.core.run inputs.length s = .next t → e.queries = [] → e.inputs = quietOf inputs →
    ∃ u, Sys2Proof.core.run (quietOf inputs).length (under s e) = .next u ∧ u.block = t.block := by
  induction inputs with
  | nil =>
    intro s e _ hrun _ _
    injection hrun with hrun
    subst hrun
    exact ⟨_, rfl, rfl⟩
  | cons x rest ih =>
    intro s e hinputs hrun he heinputs
    obtain ⟨v, hv, hrun⟩ := step_of_run_succ hrun
    have hrest := step_takes_delivery hinputs hv
    cases hreader : notReaders x with
    | false =>
      have hquiet : quietOf (x :: rest) = quietOf rest := List.filter_cons_of_neg (by simp [hreader])
      rw [hquiet] at heinputs ⊢
      rw [under_eq_of_block_eq (step_readers_block hreader hinputs hv).symm e]
      exact ih hrest hrun he heinputs
    | true =>
      have hquiet : quietOf (x :: rest) = x :: quietOf rest := List.filter_cons_of_pos (by simp [hreader])
      rw [hquiet] at heinputs ⊢
      rw [List.length_cons, run_step (step_under hreader hinputs hv he heinputs)]
      exact ih hrest hrun he rfl

/-- Settles O44: the run without queries is the run under the quiet environment. -/
theorem queriesDoNotInfluenceTheBlock : Obligations.QueriesDoNotInfluenceTheBlock := by
  intro s t hrun
  exact run_under s.inputs (e := { s with inputs := quietOf s.inputs, queries := [] }) rfl hrun rfl rfl

end Sys2Proof.Proofs.MachineRuns
end

section
/-! Whole transmissions: pulses do what their symbols do (30_encoding.md section 8), and a valid frame is always published
(60_exceptions.md section 5). -/

namespace Sys2Proof.Proofs.Transmissions

open Sys2Proof Sys2Proof.Machine Sys2Proof.Proofs.BitAssembly Sys2Proof.Proofs.FrameAssembler

/-! ### Frames -/

/-- Bytes assembled from the start of the buffer stand in front of what was there before. -/
theorem bytes_eq_append {m m' : Memory} {bytes : List Byte} (hlen : bytes.length ≤ 50)
    (h : ∀ a : ByteIndex, Memory.read m' a = (bytes[a.val]?).getD (Memory.read m a)) :
    Memory.bytes m' = bytes ++ (Memory.bytes m).drop bytes.length := by
  refine List.ext_getElem (by simp; omega) fun i hi hi' => ?_
  have hi50 : i < 50 := by simpa using hi
  have hread := h ⟨i, hi50⟩
  by_cases hfront : i < bytes.length
  · simpa [Memory.bytes, List.getElem_append_left hfront, List.getElem?_eq_getElem hfront] using hread
  · have hback : bytes.length ≤ i := Nat.le_of_not_lt hfront
    simpa [Memory.bytes, List.getElem_append_right hback, List.getElem?_eq_none hback, Nat.add_sub_cancel' hback] using hread

theorem byteCursor_ne_zero {t : State} {n : Nat} (h : t.byteCursor.val = n + 1) : t.byteCursor ≠ 0 := by
  intro hzero
  rw [hzero] at h
  exact absurd h (Nat.succ_ne_zero n).symm

/-- A buffer that starts with a payload and its CRC passes the checksum under a cursor just behind them (rule R164). -/
theorem checksumOk_of_bytes {t : State} {payload rest : List Byte}
    (hbytes : Memory.bytes t.frameBuffer = payload ++ [crc8 payload] ++ rest)
    (hcursor : t.byteCursor.val = payload.length + 1) : t.checksumOk = true := by
  have hne := byteCursor_ne_zero hcursor
  have htrailing : (t.byteCursor - 1).val = payload.length := by
    rw [Fin.val_sub_one_of_ne_zero hne, hcursor, Nat.add_sub_cancel]
  rw [ChecksumValidator.checksumOk_iff hne, hcursor, Nat.add_sub_cancel, hbytes, State.readByte]
  have hread := Memory.getElem_bytes t.frameBuffer (t.byteCursor - 1)
  rw [hbytes, htrailing] at hread
  simpa using hread

/-- Settles O59: SYNC goes to the start of the buffer, the bytes are assembled there, and the frame then passes. -/
theorem aValidFrameIsAlwaysPublished : Obligations.AValidFrameIsAlwaysPublished := by
  intro s payload hm hlen
  obtain ⟨t, ht, hbyte, hframe, hread⟩ :=
    runSymbols_bytes (payload ++ [crc8 payload]) (s := s.zeroCursors) hm rfl (by simp; omega)
  have hcursor : t.byteCursor.val = payload.length + 1 := by simpa using hbyte
  have hbytes : Memory.bytes t.frameBuffer =
      payload ++ [crc8 payload] ++ (Memory.bytes s.frameBuffer).drop (payload.length + 1) := by
    have happend := bytes_eq_append (m := s.frameBuffer) (m' := t.frameBuffer) (bytes := payload ++ [crc8 payload])
      (by simp; omega) (fun a => by simpa [State.readByte] using hread a)
    simpa using happend
  have hbit : t.bitCursor = 0 := by rw [hframe]; rfl
  have hpublish :=
    ChecksumValidator.exec_endOfFrame_of_pass hbit (byteCursor_ne_zero hcursor) (checksumOk_of_bytes hbytes hcursor)
  refine ⟨t.countFrame.publish (readingOf t.frameBuffer), ?_, hbytes, ?_, hcursor⟩
  · rw [frameSymbols, runSymbols_cons (y := .sync) (exec_sync s), runSymbols_append _ ht]
    exact runSymbols_cons (y := .endOfFrame) hpublish
  · exact congrArg (fun x : State => x.countFrame.publish (readingOf t.frameBuffer)) hframe

/-! ### Pulses -/

/-- What a query in progress never changes: its reader and the first value it saw. -/
def windowStart (w : QueryWindow) : Nat × Status := (w.reader, w.first)

theorem map_windowStart_observe (s : State) : s.observe.queries.map windowStart = s.queries.map windowStart := by
  rw [State.observe_queries, List.map_map]
  rfl

/-- What a LOW edge at `T` leaves, with these deliveries behind it. -/
def afterLowEdge (s : State) (T : Timestamp) (rest : List Input) : State := ((s.takeInput rest).latchedAt T).observe

/-- A LOW edge latches, whatever the state (rule R111). -/
theorem step_lowEdge {s : State} {T : Timestamp} {rest : List Input} (hinputs : s.inputs = lowEdge T :: rest) :
    step s = .next (afterLowEdge s T rest) := by
  rw [step_request hinputs (decode_edge s.baseValid .low T)]
  rfl

/-- A HIGH edge performs the symbol of its time after the latched edge (rules R113 to R116). -/
theorem step_highEdge {s u : State} {d : Timestamp} {rest : List Input} (hbase : s.baseValid = true)
    (hinputs : s.inputs = highEdge (s.lastEdgeTimestampUs + d) :: rest)
    (hsymbol : exec (classify d).instr (s.takeInput rest) = .next u) : step s = .next u.observe := by
  have hinterval : s.lastEdgeTimestampUs + d - s.lastEdgeTimestampUs = d := IntervalClassifier.intervalOf_add_self _ d
  have hmeasure := IntervalClassifier.exec_measure_of_base (s := s.takeInput rest) hbase (s.lastEdgeTimestampUs + d)
  rw [State.takeInput_lastEdgeTimestampUs, hinterval, hsymbol] at hmeasure
  rw [step_request hinputs (decode_edge s.baseValid .high _), hbase]
  exact congrArg observed hmeasure

/-- In a context with the replies and free choices of its own, a state takes on the context's baseline, deliveries and queries. -/
theorem within_eq {w c : State} (hreplies : c.replies = w.replies) (hfree : c.freeCount = w.freeCount) :
    w.within c =
      { w with
        lastEdgeTimestampUs := c.lastEdgeTimestampUs, baseValid := c.baseValid, inputs := c.inputs
        queries := c.queries } := by
  rw [State.within, hreplies, hfree]

/-- A pulse does what its symbol does, and latches its LOW edge. -/
theorem run_pulse {s w : State} {T d : Timestamp} {rest : List Input} (hinputs : s.inputs = pulse T d ++ rest)
    (hw : exec (classify d).instr s = .next w) :
    ∃ t : State, Sys2Proof.core.run 2 s = .next t ∧
      t = { w with lastEdgeTimestampUs := T, baseValid := true, inputs := rest, queries := t.queries } ∧
      t.queries.map windowStart = s.queries.map windowStart := by
  have hlow := step_lowEdge (s := s) (T := T) (rest := highEdge (T + d) :: rest) hinputs
  have hsymbol := exec_symbol_within ((afterLowEdge s T (highEdge (T + d) :: rest)).takeInput rest) hw
  have hhigh := step_highEdge (s := afterLowEdge s T (highEdge (T + d) :: rest)) rfl rfl hsymbol
  have hprogress := exec_symbol_progress hw
  have hwithin := within_eq (c := (afterLowEdge s T (highEdge (T + d) :: rest)).takeInput rest)
    hprogress.replies.symm hprogress.freeCount.symm
  refine ⟨_, (run_step hlow 1).trans ((run_step hhigh 0).trans (run_zero _)), ?_, ?_⟩
  · rw [hwithin]
    rfl
  · rw [map_windowStart_observe]
    exact map_windowStart_observe _

/-- The last of some pulses is the last LOW edge latched. -/
theorem lastLowEdge_cons (p : Timestamp × Timestamp) (ps : List (Timestamp × Timestamp)) (T : Timestamp) :
    ((p :: ps).getLast?.map Prod.fst).getD T = (ps.getLast?.map Prod.fst).getD p.1 := by
  rw [List.getLast?_cons]
  cases ps.getLast? <;> rfl

/-- Settles O58, by induction on the pulses: the symbols that follow do the same from the state a pulse leaves as from the one
its symbol leaves, since the two differ only where no symbol looks. -/
theorem pulsesPerformTheirSymbols : Obligations.PulsesPerformTheirSymbols := by
  intro ps
  induction ps with
  | nil =>
    intro s rest hinputs
    refine ⟨s, s, rfl, rfl, ?_, rfl⟩
    obtain rfl : s.inputs = rest := hinputs
    simp
  | cons p ps ih =>
    intro s rest hinputs
    obtain ⟨w, hw, -⟩ := exec_symbol_cases (classify p.2) s
    have hcons : s.inputs = pulse p.1 p.2 ++ (pulsesAt ps ++ rest) := by rw [hinputs, pulsesAt]; rfl
    obtain ⟨v, hv, hvframe, hvqueries⟩ := run_pulse hcons hw
    obtain ⟨t, u', ht, hu', htframe, htqueries⟩ := ih v rest (by rw [hvframe])
    obtain ⟨u, hu⟩ := runSymbols_next (ps.map (fun p => classify p.2)) w
    have hsame : w.within v = v := by rw [hvframe]; rfl
    have hwithin := runSymbols_within v _ hu
    rw [hsame, hu'] at hwithin
    injection hwithin with hwithin
    have hprogress := runSymbols_progress _ hu
    have hreplies : v.replies = u.replies := by rw [hvframe, hprogress.replies]
    have hfree : v.freeCount = u.freeCount := by rw [hvframe, hprogress.freeCount]
    have hbaseline : v.lastEdgeTimestampUs = p.1 ∧ v.baseValid = true := by rw [hvframe]; exact ⟨rfl, rfl⟩
    refine ⟨t, u, ?_, (runSymbols_cons hw).trans hu, ?_, htqueries.trans hvqueries⟩
    · rw [List.length_cons, Nat.mul_succ, Nat.add_comm, run_add _ hv, ht]
    · rw [hwithin, within_eq hreplies hfree, hbaseline.1, hbaseline.2] at htframe
      rw [lastLowEdge_cons]
      simpa using htframe

/-! ### Transmissions -/

/-- A symbol's nominal duration is classified as that symbol (rule R96). -/
theorem classify_nominal (y : Symbol) : classify (nominal y) = y := by
  cases y <;> rfl

/-- The pulses of a frame are those of its symbols. -/
theorem map_classify_schedule (T : Timestamp) (ys : List Symbol) :
    (schedule T (ys.map nominal)).map (fun p => classify p.2) = ys := by
  have hcomp : (fun p : Timestamp × Timestamp => classify p.2) = classify ∘ Prod.snd := rfl
  rw [hcomp, ← List.map_map, map_snd_schedule, List.map_map]
  exact List.map_id'' classify_nominal ys

/-- Settles O60: the pulses do what the frame's symbols do, and these publish it. -/
theorem aValidTransmissionIsAlwaysPublished : Obligations.AValidTransmissionIsAlwaysPublished := by
  intro s payload T hm hlen hinputs
  obtain ⟨t, u, ht, hu, htframe, -⟩ := pulsesPerformTheirSymbols
    (schedule T ((frameSymbols (payload ++ [crc8 payload])).map nominal)) s [] (by rw [hinputs, List.append_nil]; rfl)
  rw [map_classify_schedule] at hu
  obtain ⟨u', hu', hbytes, huframe, -⟩ := aValidFrameIsAlwaysPublished s payload hm hlen
  obtain rfl : u = u' := by rw [hu] at hu'; injection hu'
  refine ⟨t, ?_, ?_, ?_, ?_, ?_⟩
  · rw [hinputs, frameEdges, pulses, length_pulsesAt, ht]
  · rw [htframe]
  · rw [htframe]
    exact hbytes
  · rw [htframe, huframe]
  · rw [htframe, huframe]

end Sys2Proof.Proofs.Transmissions
end
